-- ==== Sys2Proof/Word.lean ====
section
/-! DEFINITION. The word types of base64_core (spec/00_scope.md R9, spec/30_encoding.md R60).

A byte and a command word are what the spec treats as bits.  Everything that is a set of names (an alphabet, a
symbol class, a status, a stream state) is an inductive type of its own file. -/

namespace Sys2Proof

/-- A byte, "an 8-bit unsigned value 0..255" (R9); also a decode-ROM entry, "an 8-bit pattern" (R9). -/
abbrev Byte := BitVec 8

/-- One command: "Every command is one 64-bit word with a single format, `C`" (R60). -/
abbrev CmdWord := BitVec 64

/-- An options value, "a 6-bit set" (R6): bit 0 ENCODE, 1 GZIP, 2 DONT_GUNZIP, 3 DO_BREAK_LINES, 4 URL_SAFE,
5 ORDERED. -/
abbrev Options := BitVec 6

end Sys2Proof
end

