-- ==== Sys2Proof/Syntax.lean ====
section
/-! DEFINITION. The twelve commands of spec/opcode_table.json, each with exactly the operands that spec/30_encoding.md R66
says it reads.  OPT is kept whole where the command reads any of it, since "OPT ... is an options value, read whole" (R62);
bits that a command does not read stand in no constructor (R64: they change no outcome). -/

namespace Sys2Proof

/-- A command of base64_core, one constructor per row of the opcode table (R67). -/
inductive Instr where
  /-- NOP, OP 0x0 (R140). -/
  | nop
  /-- LUTE, OP 0x1 (R111): OPT, `i = DATA[5:0]`. -/
  | lute (opt : Options) (index : BitVec 6)
  /-- LUTD, OP 0x2 (R112): OPT, `b = DATA[7:0]`. -/
  | lutd (opt : Options) (b : Byte)
  /-- ENC3, OP 0x3 (R133): OPT, `n = CNT`, `b0 = DATA[7:0]`, `b1 = DATA[15:8]`, `b2 = DATA[23:16]`. -/
  | enc3 (opt : Options) (cnt : BitVec 2) (b0 b1 b2 : Byte)
  /-- DEC4, OP 0x4 (R139): OPT, symbols `s0 .. s3` in DATA lanes 0 to 3. -/
  | dec4 (opt : Options) (s0 s1 s2 s3 : Byte)
  /-- SOPEN, OP 0x5 (R152): all six bits of OPT. -/
  | sopen (opt : Options)
  /-- SWR, OP 0x6 (R153): `b = DATA[7:0]`. -/
  | swr (b : Byte)
  /-- SFLUSH, OP 0x7 (R162). -/
  | sflush
  /-- SSUSP, OP 0x8 (R163). -/
  | ssusp
  /-- SRES, OP 0x9 (R164). -/
  | sres
  /-- SCLOSE, OP 0xA (R165). -/
  | sclose
  /-- SSTAT, OP 0xB (R166). -/
  | sstat
deriving DecidableEq, Repr

end Sys2Proof
end

