-- ==== Sys2Proof/WellFormed.lean ====
section
/-! DEFINITION. Well-formedness of commands and of command words.

Of an instruction: that every operand fits the field that carries it (spec/30_encoding.md R60, R66).  The operand types have
the fields' widths, and the spec admits every value of every field ("All four values are legal", R63; "no out-of-range
index", R111; "Every byte value ... is legal", R133), so the check refuses no term of `Instr`; it says so constructor by
constructor, and `Sys2Proof.Laws.wellFormed_eq_true` proves it.

Of a command word: that it is written as R64 and R74 ask of software, every bit outside the fields the command has being 0.
Such bits are ignored, so the machine runs other words too; a word that fails this check still has its meaning. -/

namespace Sys2Proof

/-- Every operand fits its field (R60, R66). -/
def Instr.wellFormed : Instr → Bool
  | .nop => true
  | .lute opt index => decide (opt.toNat < 64) && decide (index.toNat < 64)
  | .lutd opt b => decide (opt.toNat < 64) && decide (b.toNat < 256)
  | .enc3 opt cnt b0 b1 b2 =>
    decide (opt.toNat < 64) && decide (cnt.toNat < 4)
      && decide (b0.toNat < 256) && decide (b1.toNat < 256) && decide (b2.toNat < 256)
  | .dec4 opt s0 s1 s2 s3 =>
    decide (opt.toNat < 64)
      && decide (s0.toNat < 256) && decide (s1.toNat < 256) && decide (s2.toNat < 256) && decide (s3.toNat < 256)
  | .sopen opt => decide (opt.toNat < 64)
  | .swr b => decide (b.toNat < 256)
  | .sflush => true
  | .ssusp => true
  | .sres => true
  | .sclose => true
  | .sstat => true

/-- The bits of the fields that a command with opcode `op` has, OP itself among them (R66's table row by row).  Where R66 names
OPT's bits 5:4 the whole of OPT counts, since OPT is "an options value, read whole" (R62) and the assembler writes an operand
`#<value>` into it whole (R74; log entry 10).  Of a reserved opcode nothing but OP is read (R61). -/
def readMask (op : BitVec 4) : CmdWord :=
  match op.toNat with
  | 0x1 => 0xFFC000000000003F#64
  | 0x2 => 0xFFC00000000000FF#64
  | 0x3 => 0xFFF0000000FFFFFF#64
  | 0x4 => 0xFFC00000FFFFFFFF#64
  | 0x5 => 0xFFC0000000000000#64
  | 0x6 => 0xF0000000000000FF#64
  | _   => 0xF000000000000000#64

/-- A word written as the assembler writes it: "writes `RSV = 0` and every ignored bit as 0" (R74, R64). -/
def canonicalWord (c : CmdWord) : Bool :=
  c &&& ~~~ readMask (c.extractLsb' 60 4) == 0#64

end Sys2Proof
end

