-- ==== Sys2Proof/Decode.lean ====
section
/-! DEFINITION. The command decoder and the encoder (spec/30_encoding.md sections 1 to 3).

"The command decoder is total. For any 64-bit word `C`: if `C[63:60]` is 0x0..0xB, the word is the command of rule R67 with
the operands of rule R66. Otherwise it is illegal" (R76).  The thirteen cases of R76's decoder type are the twelve
constructors of `Instr`, under `Command.instr`, and `Command.illegal`, which names the reserved opcode. -/

namespace Sys2Proof

/-! ### The fields of a command word (R60) and the byte lanes of DATA (R44) -/

/-- `OP = C[63:60]`. -/
def fieldOp (c : CmdWord) : BitVec 4 := c.extractLsb' 60 4

/-- `OPT = C[59:54]`. -/
def fieldOpt (c : CmdWord) : Options := c.extractLsb' 54 6

/-- `CNT = C[53:52]`. -/
def fieldCnt (c : CmdWord) : BitVec 2 := c.extractLsb' 52 2

/-- `RSV = C[51:32]`: reserved; no command reads it (R64). -/
def fieldRsv (c : CmdWord) : BitVec 20 := c.extractLsb' 32 20

/-- `DATA = C[31:0]`. -/
def fieldData (c : CmdWord) : BitVec 32 := c.extractLsb' 0 32

/-- "Byte lane `i` of a multi-byte field `F` is `F[8i+7:8i]`" (R9, R44). -/
def lane {w : Nat} (v : BitVec w) (i : Nat) : Byte := v.extractLsb' (8 * i) 8

/-! ### Decoding -/

/-- What a 64-bit word stands for (R76). -/
inductive Command where
  /-- One of the twelve commands of R67. -/
  | instr (i : Instr)
  /-- A reserved opcode, 0xC to 0xF (R68). -/
  | illegal (op : BitVec 4)
deriving DecidableEq, Repr

/-- The decoder: it "looks only at `OP`" (R61) to choose the command (R67), and cuts that command's operands from the word
(R66). -/
def decode (c : CmdWord) : Command :=
  match (fieldOp c).toNat with
  | 0x0 => .instr .nop
  | 0x1 => .instr (.lute (fieldOpt c) ((fieldData c).extractLsb' 0 6))
  | 0x2 => .instr (.lutd (fieldOpt c) (lane (fieldData c) 0))
  | 0x3 =>
    .instr (.enc3 (fieldOpt c) (fieldCnt c) (lane (fieldData c) 0) (lane (fieldData c) 1) (lane (fieldData c) 2))
  | 0x4 =>
    .instr (.dec4 (fieldOpt c)
      (lane (fieldData c) 0) (lane (fieldData c) 1) (lane (fieldData c) 2) (lane (fieldData c) 3))
  | 0x5 => .instr (.sopen (fieldOpt c))
  | 0x6 => .instr (.swr (lane (fieldData c) 0))
  | 0x7 => .instr .sflush
  | 0x8 => .instr .ssusp
  | 0x9 => .instr .sres
  | 0xA => .instr .sclose
  | 0xB => .instr .sstat
  | _   => .illegal (fieldOp c)

/-- The instruction that the decoder reads from a row's word.  A command is one 64-bit word, so bit `k` of the opcode
table's numbering is bit `k` of the word; bits from `nbits` up are 0. -/
def decodeTableWord (nbits w : Nat) : Option Instr :=
  match decode (BitVec.ofNat 64 (w % 2 ^ nbits)) with
  | .instr i => some i
  | .illegal _ => none

/-! ### Encoding -/

/-- The opcode of a command (R67). -/
def Instr.opcode : Instr → BitVec 4
  | .nop => 0x0
  | .lute _ _ => 0x1
  | .lutd _ _ => 0x2
  | .enc3 _ _ _ _ _ => 0x3
  | .dec4 _ _ _ _ _ => 0x4
  | .sopen _ => 0x5
  | .swr _ => 0x6
  | .sflush => 0x7
  | .ssusp => 0x8
  | .sres => 0x9
  | .sclose => 0xA
  | .sstat => 0xB

/-- A word from its fields, with `RSV = 0`: `{OP, OPT, CNT, RSV, DATA}` (R60). -/
def commandWord (op : BitVec 4) (opt : Options) (cnt : BitVec 2) (data : BitVec 32) : CmdWord :=
  (op.setWidth 64 <<< 60) ||| (opt.setWidth 64 <<< 54) ||| (cnt.setWidth 64 <<< 52) ||| data.setWidth 64

/-- DATA from its four lanes, lane 0 in the low bits (R44). -/
def dataWord (l0 l1 l2 l3 : Byte) : BitVec 32 :=
  (l3.setWidth 32 <<< 24) ||| (l2.setWidth 32 <<< 16) ||| (l1.setWidth 32 <<< 8) ||| l0.setWidth 32

/-- The word of a command, every bit it does not read written as 0 (R74). -/
def encode (i : Instr) : CmdWord :=
  match i with
  | .nop => commandWord i.opcode 0 0 0
  | .lute opt index => commandWord i.opcode opt 0 (index.setWidth 32)
  | .lutd opt b => commandWord i.opcode opt 0 (dataWord b 0 0 0)
  | .enc3 opt cnt b0 b1 b2 => commandWord i.opcode opt cnt (dataWord b0 b1 b2 0)
  | .dec4 opt s0 s1 s2 s3 => commandWord i.opcode opt 0 (dataWord s0 s1 s2 s3)
  | .sopen opt => commandWord i.opcode opt 0 0
  | .swr b => commandWord i.opcode 0 0 (dataWord b 0 0 0)
  | .sflush => commandWord i.opcode 0 0 0
  | .ssusp => commandWord i.opcode 0 0 0
  | .sres => commandWord i.opcode 0 0 0
  | .sclose => commandWord i.opcode 0 0 0
  | .sstat => commandWord i.opcode 0 0 0

end Sys2Proof
end

