-- ==== Sys2Proof/Config.lean ====
section
/-! DEFINITION. What is fixed for the block: the parameters of spec/00_scope.md R7, and the parameters that belong to the
host (spec/92_eei_decisions.md D47, spec/93_implementation_defined.md U7, U12).

The block itself leaves no parameter open: "every width and code is fixed by a decision" (R8).  So no constant here is
without a value, and the model has no free value.  The host-level procedures take theirs as an argument. -/

namespace Sys2Proof.Config

/-- MAX_LINE: "76 symbols per line" (R7). -/
def maxLine : Nat := 76

/-- NEWLINE: 0x0A (R7). -/
def newline : Byte := 0x0A

/-- PAD_CHAR: 0x3D, `=`, in all three alphabets (R7). -/
def padChar : Byte := 0x3D

/-- WS_CODE: 0xFB (-5), the WHITESPACE sentinel (R7, R104; decision D9). -/
def wsCode : Byte := 0xFB

/-- PAD_CODE: 0xFF (-1), the PADDING sentinel (R7, R104; decision D9). -/
def padCode : Byte := 0xFF

/-- INV_CODE: 0xF7 (-9), the INVALID sentinel (R7, R104; decision D9). -/
def invCode : Byte := 0xF7

/-- What the host-level procedures of spec/45_host_sequences.md take as arguments: the one OPEN parameter of the spec and
the opaque gzip collaborator.  None of it is part of the block, and no field of the machine's state has this type. -/
structure HostParams where
  /-- What HOST_STRING_TO_BYTES leaves open: the bytes that the host puts for the character at that index of the string, where
  it is not 7-bit ASCII (D47, U12).  `Machine.hostStringToBytes` is the whole conversion. -/
  nonAscii : List Char → Nat → List Byte
  /-- "`gzip : bytes -> bytes`" (U7). -/
  gzip : List Byte → List Byte
  /-- "`gunzip : bytes -> bytes or failure`" (U7); none is the failure. -/
  gunzip : List Byte → Option (List Byte)

end Sys2Proof.Config
end

