-- ==== Sys2Proof/Machine/Rom.lean ====
section
/-! DEFINITION. Alphabets and the six lookup ROMs, alphabet_encode_lut and alphabet_decode_lut (spec/40_lut.md).

The tables are the spec's, entry by entry: the encode ROMs of R101 to R103 in rows of eight ("value = row + column"), the
decode ROMs of R107 to R109 in rows of sixteen ("row `b[7:4]`, column `b[3:0]`").  "No command writes them, and reset does
not change them" (R30). -/

namespace Sys2Proof.Machine

/-- The three alphabets (R7 N_ALPHABETS, R40). -/
inductive Alphabet where
  /-- `a = 0`. -/
  | standard
  /-- `a = 1`. -/
  | urlSafe
  /-- `a = 2`. -/
  | ordered
deriving DecidableEq, Repr

/-- `AlphaSel(opt)`: "URL_SAFE takes priority over ORDERED ...; default is Standard" (R100). -/
def alphaSel (opt : Options) : Alphabet :=
  if opt.getLsbD 4 then .urlSafe else if opt.getLsbD 5 then .ordered else .standard

/-- `ENC_ROM` of the standard alphabet (R101). -/
def standardEncRows : List (List Byte) :=
  [[0x41, 0x42, 0x43, 0x44, 0x45, 0x46, 0x47, 0x48],
   [0x49, 0x4A, 0x4B, 0x4C, 0x4D, 0x4E, 0x4F, 0x50],
   [0x51, 0x52, 0x53, 0x54, 0x55, 0x56, 0x57, 0x58],
   [0x59, 0x5A, 0x61, 0x62, 0x63, 0x64, 0x65, 0x66],
   [0x67, 0x68, 0x69, 0x6A, 0x6B, 0x6C, 0x6D, 0x6E],
   [0x6F, 0x70, 0x71, 0x72, 0x73, 0x74, 0x75, 0x76],
   [0x77, 0x78, 0x79, 0x7A, 0x30, 0x31, 0x32, 0x33],
   [0x34, 0x35, 0x36, 0x37, 0x38, 0x39, 0x2B, 0x2F]]

/-- `ENC_ROM` of the urlSafe alphabet (R102). -/
def urlSafeEncRows : List (List Byte) :=
  [[0x41, 0x42, 0x43, 0x44, 0x45, 0x46, 0x47, 0x48],
   [0x49, 0x4A, 0x4B, 0x4C, 0x4D, 0x4E, 0x4F, 0x50],
   [0x51, 0x52, 0x53, 0x54, 0x55, 0x56, 0x57, 0x58],
   [0x59, 0x5A, 0x61, 0x62, 0x63, 0x64, 0x65, 0x66],
   [0x67, 0x68, 0x69, 0x6A, 0x6B, 0x6C, 0x6D, 0x6E],
   [0x6F, 0x70, 0x71, 0x72, 0x73, 0x74, 0x75, 0x76],
   [0x77, 0x78, 0x79, 0x7A, 0x30, 0x31, 0x32, 0x33],
   [0x34, 0x35, 0x36, 0x37, 0x38, 0x39, 0x2D, 0x5F]]

/-- `ENC_ROM` of the ordered alphabet (R103). -/
def orderedEncRows : List (List Byte) :=
  [[0x2D, 0x30, 0x31, 0x32, 0x33, 0x34, 0x35, 0x36],
   [0x37, 0x38, 0x39, 0x41, 0x42, 0x43, 0x44, 0x45],
   [0x46, 0x47, 0x48, 0x49, 0x4A, 0x4B, 0x4C, 0x4D],
   [0x4E, 0x4F, 0x50, 0x51, 0x52, 0x53, 0x54, 0x55],
   [0x56, 0x57, 0x58, 0x59, 0x5A, 0x5F, 0x61, 0x62],
   [0x63, 0x64, 0x65, 0x66, 0x67, 0x68, 0x69, 0x6A],
   [0x6B, 0x6C, 0x6D, 0x6E, 0x6F, 0x70, 0x71, 0x72],
   [0x73, 0x74, 0x75, 0x76, 0x77, 0x78, 0x79, 0x7A]]

/-- `DEC_ROM` of the standard alphabet (R107). -/
def standardDecRows : List (List Byte) :=
  [[0xF7, 0xF7, 0xF7, 0xF7, 0xF7, 0xF7, 0xF7, 0xF7, 0xF7, 0xFB, 0xFB, 0xF7, 0xF7, 0xFB, 0xF7, 0xF7],
   [0xF7, 0xF7, 0xF7, 0xF7, 0xF7, 0xF7, 0xF7, 0xF7, 0xF7, 0xF7, 0xF7, 0xF7, 0xF7, 0xF7, 0xF7, 0xF7],
   [0xFB, 0xF7, 0xF7, 0xF7, 0xF7, 0xF7, 0xF7, 0xF7, 0xF7, 0xF7, 0xF7, 0x3E, 0xF7, 0xF7, 0xF7, 0x3F],
   [0x34, 0x35, 0x36, 0x37, 0x38, 0x39, 0x3A, 0x3B, 0x3C, 0x3D, 0xF7, 0xF7, 0xF7, 0xFF, 0xF7, 0xF7],
   [0xF7, 0x00, 0x01, 0x02, 0x03, 0x04, 0x05, 0x06, 0x07, 0x08, 0x09, 0x0A, 0x0B, 0x0C, 0x0D, 0x0E],
   [0x0F, 0x10, 0x11, 0x12, 0x13, 0x14, 0x15, 0x16, 0x17, 0x18, 0x19, 0xF7, 0xF7, 0xF7, 0xF7, 0xF7],
   [0xF7, 0x1A, 0x1B, 0x1C, 0x1D, 0x1E, 0x1F, 0x20, 0x21, 0x22, 0x23, 0x24, 0x25, 0x26, 0x27, 0x28],
   [0x29, 0x2A, 0x2B, 0x2C, 0x2D, 0x2E, 0x2F, 0x30, 0x31, 0x32, 0x33, 0xF7, 0xF7, 0xF7, 0xF7, 0xF7],
   [0xF7, 0xF7, 0xF7, 0xF7, 0xF7, 0xF7, 0xF7, 0xF7, 0xF7, 0xF7, 0xF7, 0xF7, 0xF7, 0xF7, 0xF7, 0xF7],
   [0xF7, 0xF7, 0xF7, 0xF7, 0xF7, 0xF7, 0xF7, 0xF7, 0xF7, 0xF7, 0xF7, 0xF7, 0xF7, 0xF7, 0xF7, 0xF7],
   [0xF7, 0xF7, 0xF7, 0xF7, 0xF7, 0xF7, 0xF7, 0xF7, 0xF7, 0xF7, 0xF7, 0xF7, 0xF7, 0xF7, 0xF7, 0xF7],
   [0xF7, 0xF7, 0xF7, 0xF7, 0xF7, 0xF7, 0xF7, 0xF7, 0xF7, 0xF7, 0xF7, 0xF7, 0xF7, 0xF7, 0xF7, 0xF7],
   [0xF7, 0xF7, 0xF7, 0xF7, 0xF7, 0xF7, 0xF7, 0xF7, 0xF7, 0xF7, 0xF7, 0xF7, 0xF7, 0xF7, 0xF7, 0xF7],
   [0xF7, 0xF7, 0xF7, 0xF7, 0xF7, 0xF7, 0xF7, 0xF7, 0xF7, 0xF7, 0xF7, 0xF7, 0xF7, 0xF7, 0xF7, 0xF7],
   [0xF7, 0xF7, 0xF7, 0xF7, 0xF7, 0xF7, 0xF7, 0xF7, 0xF7, 0xF7, 0xF7, 0xF7, 0xF7, 0xF7, 0xF7, 0xF7],
   [0xF7, 0xF7, 0xF7, 0xF7, 0xF7, 0xF7, 0xF7, 0xF7, 0xF7, 0xF7, 0xF7, 0xF7, 0xF7, 0xF7, 0xF7, 0xF7]]

/-- `DEC_ROM` of the urlSafe alphabet (R108). -/
def urlSafeDecRows : List (List Byte) :=
  [[0xF7, 0xF7, 0xF7, 0xF7, 0xF7, 0xF7, 0xF7, 0xF7, 0xF7, 0xFB, 0xFB, 0xF7, 0xF7, 0xFB, 0xF7, 0xF7],
   [0xF7, 0xF7, 0xF7, 0xF7, 0xF7, 0xF7, 0xF7, 0xF7, 0xF7, 0xF7, 0xF7, 0xF7, 0xF7, 0xF7, 0xF7, 0xF7],
   [0xFB, 0xF7, 0xF7, 0xF7, 0xF7, 0xF7, 0xF7, 0xF7, 0xF7, 0xF7, 0xF7, 0xF7, 0xF7, 0x3E, 0xF7, 0xF7],
   [0x34, 0x35, 0x36, 0x37, 0x38, 0x39, 0x3A, 0x3B, 0x3C, 0x3D, 0xF7, 0xF7, 0xF7, 0xFF, 0xF7, 0xF7],
   [0xF7, 0x00, 0x01, 0x02, 0x03, 0x04, 0x05, 0x06, 0x07, 0x08, 0x09, 0x0A, 0x0B, 0x0C, 0x0D, 0x0E],
   [0x0F, 0x10, 0x11, 0x12, 0x13, 0x14, 0x15, 0x16, 0x17, 0x18, 0x19, 0xF7, 0xF7, 0xF7, 0xF7, 0x3F],
   [0xF7, 0x1A, 0x1B, 0x1C, 0x1D, 0x1E, 0x1F, 0x20, 0x21, 0x22, 0x23, 0x24, 0x25, 0x26, 0x27, 0x28],
   [0x29, 0x2A, 0x2B, 0x2C, 0x2D, 0x2E, 0x2F, 0x30, 0x31, 0x32, 0x33, 0xF7, 0xF7, 0xF7, 0xF7, 0xF7],
   [0xF7, 0xF7, 0xF7, 0xF7, 0xF7, 0xF7, 0xF7, 0xF7, 0xF7, 0xF7, 0xF7, 0xF7, 0xF7, 0xF7, 0xF7, 0xF7],
   [0xF7, 0xF7, 0xF7, 0xF7, 0xF7, 0xF7, 0xF7, 0xF7, 0xF7, 0xF7, 0xF7, 0xF7, 0xF7, 0xF7, 0xF7, 0xF7],
   [0xF7, 0xF7, 0xF7, 0xF7, 0xF7, 0xF7, 0xF7, 0xF7, 0xF7, 0xF7, 0xF7, 0xF7, 0xF7, 0xF7, 0xF7, 0xF7],
   [0xF7, 0xF7, 0xF7, 0xF7, 0xF7, 0xF7, 0xF7, 0xF7, 0xF7, 0xF7, 0xF7, 0xF7, 0xF7, 0xF7, 0xF7, 0xF7],
   [0xF7, 0xF7, 0xF7, 0xF7, 0xF7, 0xF7, 0xF7, 0xF7, 0xF7, 0xF7, 0xF7, 0xF7, 0xF7, 0xF7, 0xF7, 0xF7],
   [0xF7, 0xF7, 0xF7, 0xF7, 0xF7, 0xF7, 0xF7, 0xF7, 0xF7, 0xF7, 0xF7, 0xF7, 0xF7, 0xF7, 0xF7, 0xF7],
   [0xF7, 0xF7, 0xF7, 0xF7, 0xF7, 0xF7, 0xF7, 0xF7, 0xF7, 0xF7, 0xF7, 0xF7, 0xF7, 0xF7, 0xF7, 0xF7],
   [0xF7, 0xF7, 0xF7, 0xF7, 0xF7, 0xF7, 0xF7, 0xF7, 0xF7, 0xF7, 0xF7, 0xF7, 0xF7, 0xF7, 0xF7, 0xF7]]

/-- `DEC_ROM` of the ordered alphabet (R109). -/
def orderedDecRows : List (List Byte) :=
  [[0xF7, 0xF7, 0xF7, 0xF7, 0xF7, 0xF7, 0xF7, 0xF7, 0xF7, 0xFB, 0xFB, 0xF7, 0xF7, 0xFB, 0xF7, 0xF7],
   [0xF7, 0xF7, 0xF7, 0xF7, 0xF7, 0xF7, 0xF7, 0xF7, 0xF7, 0xF7, 0xF7, 0xF7, 0xF7, 0xF7, 0xF7, 0xF7],
   [0xFB, 0xF7, 0xF7, 0xF7, 0xF7, 0xF7, 0xF7, 0xF7, 0xF7, 0xF7, 0xF7, 0xF7, 0xF7, 0x00, 0xF7, 0xF7],
   [0x01, 0x02, 0x03, 0x04, 0x05, 0x06, 0x07, 0x08, 0x09, 0x0A, 0xF7, 0xF7, 0xF7, 0xFF, 0xF7, 0xF7],
   [0xF7, 0x0B, 0x0C, 0x0D, 0x0E, 0x0F, 0x10, 0x11, 0x12, 0x13, 0x14, 0x15, 0x16, 0x17, 0x18, 0x19],
   [0x1A, 0x1B, 0x1C, 0x1D, 0x1E, 0x1F, 0x20, 0x21, 0x22, 0x23, 0x24, 0xF7, 0xF7, 0xF7, 0xF7, 0x25],
   [0xF7, 0x26, 0x27, 0x28, 0x29, 0x2A, 0x2B, 0x2C, 0x2D, 0x2E, 0x2F, 0x30, 0x31, 0x32, 0x33, 0x34],
   [0x35, 0x36, 0x37, 0x38, 0x39, 0x3A, 0x3B, 0x3C, 0x3D, 0x3E, 0x3F, 0xF7, 0xF7, 0xF7, 0xF7, 0xF7],
   [0xF7, 0xF7, 0xF7, 0xF7, 0xF7, 0xF7, 0xF7, 0xF7, 0xF7, 0xF7, 0xF7, 0xF7, 0xF7, 0xF7, 0xF7, 0xF7],
   [0xF7, 0xF7, 0xF7, 0xF7, 0xF7, 0xF7, 0xF7, 0xF7, 0xF7, 0xF7, 0xF7, 0xF7, 0xF7, 0xF7, 0xF7, 0xF7],
   [0xF7, 0xF7, 0xF7, 0xF7, 0xF7, 0xF7, 0xF7, 0xF7, 0xF7, 0xF7, 0xF7, 0xF7, 0xF7, 0xF7, 0xF7, 0xF7],
   [0xF7, 0xF7, 0xF7, 0xF7, 0xF7, 0xF7, 0xF7, 0xF7, 0xF7, 0xF7, 0xF7, 0xF7, 0xF7, 0xF7, 0xF7, 0xF7],
   [0xF7, 0xF7, 0xF7, 0xF7, 0xF7, 0xF7, 0xF7, 0xF7, 0xF7, 0xF7, 0xF7, 0xF7, 0xF7, 0xF7, 0xF7, 0xF7],
   [0xF7, 0xF7, 0xF7, 0xF7, 0xF7, 0xF7, 0xF7, 0xF7, 0xF7, 0xF7, 0xF7, 0xF7, 0xF7, 0xF7, 0xF7, 0xF7],
   [0xF7, 0xF7, 0xF7, 0xF7, 0xF7, 0xF7, 0xF7, 0xF7, 0xF7, 0xF7, 0xF7, 0xF7, 0xF7, 0xF7, 0xF7, 0xF7],
   [0xF7, 0xF7, 0xF7, 0xF7, 0xF7, 0xF7, 0xF7, 0xF7, 0xF7, 0xF7, 0xF7, 0xF7, 0xF7, 0xF7, 0xF7, 0xF7]]

/-- The encode ROM of an alphabet, row by row (R30, R40). -/
def encRows : Alphabet → List (List Byte)
  | .standard => standardEncRows
  | .urlSafe => urlSafeEncRows
  | .ordered => orderedEncRows

/-- The decode ROM of an alphabet, row by row (R30, R40). -/
def decRows : Alphabet → List (List Byte)
  | .standard => standardDecRows
  | .urlSafe => urlSafeDecRows
  | .ordered => orderedDecRows

/-- `EncRom(a, i)` (R10, R40): the entry at row `i[5:3]`, column `i[2:0]`.  Every index is inside the table, so the default
of the lookup is never read. -/
def encRom (a : Alphabet) (i : BitVec 6) : Byte :=
  ((encRows a).getD (i.toNat / 8) []).getD (i.toNat % 8) 0

/-- `DecRom(a, b)` (R10, R40): the raw 8-bit entry at row `b[7:4]`, column `b[3:0]`, indexed by the whole byte (decision
D36).  Every index is inside the table, so the default of the lookup is never read. -/
def decRom (a : Alphabet) (b : Byte) : Byte :=
  ((decRows a).getD (b.toNat / 16) []).getD (b.toNat % 16) Config.invCode

end Sys2Proof.Machine
end

