-- ==== Sys2Proof/Machine/State.lean ====
section
/-! DEFINITION. The state of base64_core and of its command port (spec/10_state.md, spec/30_encoding.md R71).

`StreamState` is the spec's state `S`, "one record" (R22).  The six ROMs are "constant state" (R30): no command writes them
and reset does not change them, so they are the constants of Machine/Rom.lean and no field.  Around `S` the model keeps the
port through which the block meets its host: the inputs the host will give and the responses the block has given.  Those two
fields are the model's own (log entries 1 and 2): the spec calls neither the command word nor the response state (R32). -/

namespace Sys2Proof.Machine

/-- The values of `S.FSM` (R22, R23). -/
inductive Fsm where
  /-- 0, IDLE: "no stream has been opened since reset". -/
  | idle
  /-- 1, OPEN: "a stream is open and accepts bytes". -/
  | opened
  /-- 2, CLOSED: "SCLOSE completed". -/
  | closed
  /-- 3, FAILED: "a decode error or a padding error ended the stream". -/
  | failed
deriving DecidableEq, Repr

/-- The spec's state `S` (R22), each field with the width R22 gives it. -/
structure StreamState where
  /-- `S.FSM`, 2 bits, four named values (R23). -/
  fsm : Fsm
  /-- `S.OPT`: the options given to the last SOPEN (R24). -/
  opt : Options
  /-- `S.BUF`: up to three pending bytes, lane `i` the `i`-th (R25). -/
  buf : BitVec 24
  /-- `S.BUFCNT`: how many bytes are pending (R26). -/
  bufcnt : BitVec 2
  /-- `S.SUSP`, 1 bit: the suspended flag (R27). -/
  susp : Bool
  /-- `S.LINE`: output symbols since the last newline (R28). -/
  line : BitVec 7
  /-- `S.POS`: bytes the stream has accepted since SOPEN (R29). -/
  pos : BitVec 32
deriving DecidableEq, Repr

/-- The status codes (R230); "A model's status type has 8 values" (V3 of spec/93_implementation_defined.md). -/
inductive Status where
  /-- 0: every command that succeeds. -/
  | ok
  /-- 1: an SWR in the decode direction met an INVALID byte (R159, R232). -/
  | invalidByte
  /-- 2: a flush in the decode direction met pending symbols (R161, R233). -/
  | badPadding
  /-- 3: the host's whole-buffer decode only; "never by the block" (R234). -/
  | underlength
  /-- 4: a gated command in IDLE (R151, R235). -/
  | notOpen
  /-- 5: a gated command in CLOSED (R151, R235). -/
  | streamClosed
  /-- 6: a gated command in FAILED (R151, R235). -/
  | streamFailed
  /-- 7: a reserved opcode (R68, R236). -/
  | illegal
deriving DecidableEq, Repr

/-- The response record `Rsp` (R71). -/
structure Rsp where
  /-- `RSTAT`, 4 bits on the port: the status, whose number R230 gives. -/
  rstat : Status
  /-- `RLEN`: number of valid low byte lanes of RDATA, 0..8. -/
  rlen : BitVec 4
  /-- `RDATA`: result bytes, lane `i` the `i`-th. -/
  rdata : BitVec 64
  /-- `RBYTE`: the offending byte of an INVALID_BYTE status, else 0. -/
  rbyte : Byte
  /-- `RPOS`: the position of an error, `S.POS` for SSTAT, else 0. -/
  rpos : BitVec 32
deriving DecidableEq, Repr

/-- What the host can do to the block: issue a command word (R5), or reset it ("Reset is an input of the block, not a
command", R260). -/
inductive Input where
  /-- The host issues one command (R21, R60). -/
  | command (c : CmdWord)
  /-- The host resets the block (R260). -/
  | reset
deriving DecidableEq, Repr

/-- The block and its port. -/
structure State where
  /-- The spec's state `S` (R22). -/
  stream : StreamState
  /-- The host's inputs still to come, the next one first: "one command at a time" (R5), "totally ordered by issue" (R50).
  The model's own field. -/
  inputs : List Input
  /-- The responses given so far, the first one first: "Every command returns one response record" (R71).  The model's own
  field. -/
  rsps : List Rsp
deriving DecidableEq, Repr

/-- The block has no fault: "Every error is a status code in the response of the command that met it"
(spec/60_exceptions.md), and a command's rule "is total and deterministic" (R10).  So this type has no constructor: nothing
in the model can stop with a fault. -/
inductive Fault where
deriving DecidableEq, Repr

/-- Reasons to refuse an instruction. -/
inductive Refusal where
  /-- Raised by an arm of `exec` for an instruction without a meaning; safe (the model stops where the block goes on).
  Every instruction of this model has a meaning, so no arm raises it. -/
  | notModelled (mnemonic : String)
deriving DecidableEq, Repr

/-- `S` after reset (R35). -/
def StreamState.reset : StreamState :=
  { fsm := .idle, opt := 0, buf := 0, bufcnt := 0, susp := false, line := 0, pos := 0 }

/-- The machine right after reset: `S` as R35 gives it; nothing issued yet and nothing answered yet (the model's own two
fields, DESIGN CHOICE, log entry 1). -/
def State.reset : State :=
  { stream := StreamState.reset, inputs := [], rsps := [] }

/-- The three outcomes of one step of this machine. -/
abbrev Result := Host.Outcome State Fault Refusal

end Sys2Proof.Machine
end

