-- ==== Sys2Proof/Machine/Operands.lean ====
section
/-! DEFINITION. Operand forms: the parts of an options value, the lanes of the pending buffer, the lanes of a response
(spec/00_scope.md R6, R9, spec/10_state.md R24, R25, spec/30_encoding.md R72). -/

namespace Sys2Proof.Machine

/-! ### Options (R6) -/

/-- Bit 0, ENCODE: "1 = encode direction, 0 = decode direction" (R6). -/
def optEncode (opt : Options) : Bool := opt.getLsbD 0

/-- Bit 1, GZIP (R6): no effect in the block (R24); the host's whole-buffer encode reads it (R204). -/
def optGzip (opt : Options) : Bool := opt.getLsbD 1

/-- Bit 2, DONT_GUNZIP (R6): no effect in the block (R24); the host's string decode reads it (R211). -/
def optDontGunzip (opt : Options) : Bool := opt.getLsbD 2

/-- Bit 3, DO_BREAK_LINES: "enables line wrapping in the encode direction" (R24). -/
def optBreakLines (opt : Options) : Bool := opt.getLsbD 3

/-- `DIR = S.OPT[0]` (R24): true is the encode direction. -/
def StreamState.encodes (S : StreamState) : Bool := optEncode S.opt

/-- `ALPH = AlphaSel(S.OPT)` (R24). -/
def StreamState.alphabet (S : StreamState) : Alphabet := alphaSel S.opt

/-! ### The pending buffer's lanes (R25) -/

/-- `{b2, b1, b0}`: three bytes as 24 bits, "`a` in the more significant position" (R9). -/
def join3 (b2 b1 b0 : Byte) : BitVec 24 :=
  (b2.setWidth 24 <<< 16) ||| (b1.setWidth 24 <<< 8) ||| b0.setWidth 24

/-- "lane `k` of S.BUF <- b" (R155, R157) for the three lanes that exist.  `S.BUF` has no lane 3, so index 3 writes nothing;
no run reaches such a write (log entry 5). -/
def setLane (buf : BitVec 24) (k : BitVec 2) (b : Byte) : BitVec 24 :=
  match k.toNat with
  | 0 => join3 (lane buf 2) (lane buf 1) b
  | 1 => join3 (lane buf 2) b (lane buf 0)
  | 2 => join3 b (lane buf 1) (lane buf 0)
  | _ => buf

/-! ### The response's lanes (R71, R72) -/

/-- The bytes of a list in the lanes of RDATA, the first in lane 0, lanes above the last being 0 (R72). -/
def packLanes : List Byte → BitVec 64
  | [] => 0
  | b :: bs => (packLanes bs <<< 8) ||| b.setWidth 64

/-- The result bytes of a response: lanes 0 to `RLEN - 1` of RDATA, in lane order (R71, R72). -/
def Rsp.bytes (r : Rsp) : List Byte :=
  (List.range r.rlen.toNat).map (lane r.rdata)

end Sys2Proof.Machine
end

