-- ==== Sys2Proof/Machine/Flags.lean ====
section
/-! DEFINITION. Status codes, symbol classes and the packed response.

"The block has no condition codes and no status flags in its state. Each command's outcome is reported in the response's
4-bit status" (spec/10_state.md R31).  So what a flag file holds here is the number of each status (spec/60_exceptions.md
R230), the number of each stream state (R22), and the class test on a decode-ROM entry (spec/40_lut.md R105). -/

namespace Sys2Proof.Machine

/-- The number of a status (R230). -/
def Status.code : Status → BitVec 4
  | .ok => 0
  | .invalidByte => 1
  | .badPadding => 2
  | .underlength => 3
  | .notOpen => 4
  | .streamClosed => 5
  | .streamFailed => 6
  | .illegal => 7

/-- The number of a stream state (R22). -/
def Fsm.code : Fsm → BitVec 2
  | .idle => 0
  | .opened => 1
  | .closed => 2
  | .failed => 3

/-- The classes of a byte under a decode ROM (R11, R105). -/
inductive SymClass where
  /-- DATA: a 6-bit value. -/
  | data
  /-- WS: whitespace, skipped. -/
  | ws
  /-- PAD: the padding character `=`. -/
  | pad
  /-- INVALID: every other byte. -/
  | invalid
deriving DecidableEq, Repr

/-- `Class(e)` of a decode-ROM entry (R105). -/
def classOf (e : Byte) : SymClass :=
  if e.extractLsb' 6 2 = 0 then .data
  else if e = Config.wsCode then .ws
  else if e = Config.padCode then .pad
  else .invalid

/-- The class of a byte under an alphabet: `Class(DecRom(a, b))` (R105, R156, R207). -/
def byteClass (a : Alphabet) (b : Byte) : SymClass := classOf (decRom a b)

/-- The response as one 112-bit word, `{RPOS[31:0], RBYTE[7:0], RLEN[3:0], RSTAT[3:0], RDATA[63:0]}` (R71). -/
def Rsp.packed (r : Rsp) : BitVec 112 :=
  (r.rpos.setWidth 112 <<< 80) ||| (r.rbyte.setWidth 112 <<< 72) ||| (r.rlen.setWidth 112 <<< 68)
    ||| (r.rstat.code.setWidth 112 <<< 64) ||| r.rdata.setWidth 112

end Sys2Proof.Machine
end

