-- ==== Sys2Proof/Machine/Quantum.lean ====
section
/-! DEFINITION. The two pure conversion functions, base64_encode_core and base64_decode_core (spec/41_quantum.md sections 1
and 2).  ENC3 and DEC4, the stream FSM and the host's whole-buffer procedures all use these two. -/

namespace Sys2Proof.Machine

/-- `Enc3to4(a, b0, b1, b2, n)`: "packs the significant bytes into a 24-bit group, left-justified and zero-padded" and maps
its four 6-bit fields through the encode ROM (R130), with `=` for what the padding rule replaces (R131); `n = 0` "returns no
symbols, the empty sequence" (R132). -/
def enc3to4 (a : Alphabet) (b0 b1 b2 : Byte) (n : BitVec 2) : List Byte :=
  let c1 : Byte := if 2 ≤ n.toNat then b1 else 0
  let c2 : Byte := if 3 ≤ n.toNat then b2 else 0
  let t : BitVec 24 := join3 b0 c1 c2
  let y0 := encRom a (t.extractLsb' 18 6)
  let y1 := encRom a (t.extractLsb' 12 6)
  let y2 := encRom a (t.extractLsb' 6 6)
  let y3 := encRom a (t.extractLsb' 0 6)
  match n.toNat with
  | 0 => []
  | 1 => [y0, y1, Config.padChar, Config.padChar]
  | 2 => [y0, y1, y2, Config.padChar]
  | _ => [y0, y1, y2, y3]

/-- `e_k`: the raw 8-bit entry of a symbol, zero-extended to the 32-bit word it is combined in (R134, R137). -/
def rawEntry (a : Alphabet) (s : Byte) : BitVec 32 := (decRom a s).setWidth 32

/-- Path 1, one output byte (R135). -/
def path1 (e0 e1 : BitVec 32) : List Byte :=
  let t := (e0 <<< 18) ||| (e1 <<< 12)
  [t.extractLsb' 16 8]

/-- Path 2, two output bytes (R136). -/
def path2 (e0 e1 e2 : BitVec 32) : List Byte :=
  let t := (e0 <<< 18) ||| (e1 <<< 12) ||| (e2 <<< 6)
  [t.extractLsb' 16 8, t.extractLsb' 8 8]

/-- Path 3, three output bytes (R137). -/
def path3 (e0 e1 e2 e3 : BitVec 32) : List Byte :=
  let t := (e0 <<< 18) ||| (e1 <<< 12) ||| (e2 <<< 6) ||| e3
  [t.extractLsb' 16 8, t.extractLsb' 8 8, t.extractLsb' 0 8]

/-- `Dec4to3(a, s0, s1, s2, s3)`: the path is chosen "by testing the raw symbol bytes against `=`", the third symbol first
and then the fourth (R134, which follows spec/90_conflicts.md C1).  It "never raises a status and never rejects a symbol"
(R138). -/
def dec4to3 (a : Alphabet) (s0 s1 s2 s3 : Byte) : List Byte :=
  if s2 = Config.padChar then path1 (rawEntry a s0) (rawEntry a s1)
  else if s3 = Config.padChar then path2 (rawEntry a s0) (rawEntry a s1) (rawEntry a s2)
  else path3 (rawEntry a s0) (rawEntry a s1) (rawEntry a s2) (rawEntry a s3)

end Sys2Proof.Machine
end

