-- ==== Sys2Proof/Machine/Ops.lean ====
section
/-! DEFINITION. The operations the meanings share: answering a command, emitting bytes, raising a status, entering and
leaving the FAILED state, the gate and the flush (spec/00_scope.md R10, spec/42_stream.md, spec/60_exceptions.md).

Memory: the block has none to write ("there is no `MemWrite`", R10); its ROM reads are in Machine/Rom.lean.

Taking an exception: "In this block raising is not a trap: it is a synchronous status in the response. Where the rule says
so, it also moves the stream FSM to FAILED" (R10).  `raise` and `enterFailed` are that, once for every command; there is no
handler, no saved state and "no return-from-error command" (R239), so `openStream` and `resetStream` stand beside them as
"the only ways out" (R239). -/

namespace Sys2Proof.Machine

/-! ### Responses (R71, R72, R231) -/

/-- `emit(x0, ..., xk)` with status OK: the bytes in RDATA's lanes, `RLEN` their number, every other field 0 (R72); of no
bytes, `RLEN <- 0; RSTAT <- OK`. -/
def emit (xs : List Byte) : Rsp :=
  { rstat := .ok, rlen := BitVec.ofNat 4 xs.length, rdata := packLanes xs, rbyte := 0, rpos := 0 }

/-- `raise <Status>(RBYTE, RPOS)`: "Every non-OK response has `RLEN = 0` and `RDATA = 0`" (R10, R231). -/
def raise (st : Status) (rbyte : Byte) (rpos : BitVec 32) : Rsp :=
  { rstat := st, rlen := 0, rdata := 0, rbyte := rbyte, rpos := rpos }

/-- The end of a command: its state and its response are one indivisible step (R47), and it returns exactly one response
(R71). -/
def State.respond (s : State) (S : StreamState) (r : Rsp) : Result :=
  .next { s with stream := S, rsps := s.rsps ++ [r] }

/-! ### The stream record's own operations -/

/-- Entering FAILED: "the only state change is `S.FSM <- FAILED`" (R238). -/
def StreamState.enterFailed (S : StreamState) : StreamState := { S with fsm := .failed }

/-- SOPEN's writes: `S.FSM <- OPEN; S.OPT <- OPT` and every other field 0 (R152). -/
def StreamState.openStream (opt : Options) : StreamState :=
  { fsm := .opened, opt := opt, buf := 0, bufcnt := 0, susp := false, line := 0, pos := 0 }

/-- Reset of `S` (R260), from any state. -/
def resetStream (_ : StreamState) : StreamState := StreamState.reset

/-- `S.BUF <- 0; S.BUFCNT <- 0`: "Every rule that consumes the buffer clears it to 0" (R25). -/
def StreamState.clearBuf (S : StreamState) : StreamState := { S with buf := 0, bufcnt := 0 }

/-- `S.POS <- S.POS + 1`, modulo 2^32 (R160). -/
def StreamState.countByte (S : StreamState) : StreamState := { S with pos := S.pos + 1 }

/-- `lane S.BUFCNT of S.BUF <- b; S.BUFCNT <- S.BUFCNT + 1` (R155, R157). -/
def StreamState.pushByte (S : StreamState) (b : Byte) : StreamState :=
  { S with buf := setLane S.buf S.bufcnt b, bufcnt := S.bufcnt + 1 }

/-! ### The gate (R151) -/

/-- `Gate()`: the status it raises, or none in OPEN (R151). -/
def gate (S : StreamState) : Option Status :=
  match S.fsm with
  | .idle => some .notOpen
  | .closed => some .streamClosed
  | .failed => some .streamFailed
  | .opened => none

/-- A gated command: "A raise in `Gate` ends the command with `RLEN = 0` and leaves `S` unchanged" (R151); else its body
runs. -/
def State.gated (s : State) (body : StreamState → StreamState × Rsp) : Result :=
  match gate s.stream with
  | some st => s.respond s.stream (raise st 0 0)
  | none => s.respond (body s.stream).1 (body s.stream).2

/-! ### The flush (R161) -/

/-- `Enc3to4` of the pending bytes, with count `n`. -/
def StreamState.encodePending (S : StreamState) (n : BitVec 2) : List Byte :=
  enc3to4 S.alphabet (lane S.buf 0) (lane S.buf 1) (lane S.buf 2) n

/-- `Flush()`, "the common step of SFLUSH, SSUSP and SCLOSE" (R161). -/
def flush (S : StreamState) : StreamState × Rsp :=
  if S.bufcnt = 0 then (S, emit [])
  else if S.encodes then (S.clearBuf, emit (S.encodePending S.bufcnt))
  else (S.enterFailed, raise .badPadding 0 S.pos)

/-- What SSUSP and SCLOSE do "if RSTAT = OK" after their flush (R163, R165). -/
def thenIfOk (out : StreamState × Rsp) (f : StreamState → StreamState) : StreamState × Rsp :=
  if out.2.rstat = .ok then (f out.1, out.2) else out

/-! ### Reserved opcodes (R68, R236) -/

/-- A reserved opcode: status ILLEGAL, `RLEN = 0` "and every other response field 0, and it changes no state" (R68). -/
def execIllegal (_op : BitVec 4) (s : State) : Result :=
  s.respond s.stream (raise .illegal 0 0)

end Sys2Proof.Machine
end

