-- ==== Sys2Proof/Machine/Cores.lean ====
section
/-! DEFINITION. NOP, ENC3 and DEC4 (spec/41_quantum.md). -/

namespace Sys2Proof.Machine

/-- NOP: `RLEN <- 0; RSTAT <- OK` (R140). -/
def execNop (s : State) : Result :=
  s.respond s.stream (emit [])

/-- ENC3: `Enc3to4` of the three DATA lanes with `n = CNT`; "`n = 0` gives `RLEN = 0` and `RDATA = 0`" (R133). -/
def execEnc3 (opt : Options) (cnt : BitVec 2) (b0 b1 b2 : Byte) (s : State) : Result :=
  s.respond s.stream (emit (enc3to4 (alphaSel opt) b0 b1 b2 cnt))

/-- DEC4: `Dec4to3` of the four DATA lanes; "always OK", whitespace and invalid symbols "are not filtered" (R139). -/
def execDec4 (opt : Options) (s0 s1 s2 s3 : Byte) (s : State) : Result :=
  s.respond s.stream (emit (dec4to3 (alphaSel opt) s0 s1 s2 s3))

end Sys2Proof.Machine
end

