-- ==== Sys2Proof/Machine/Lookup.lean ====
section
/-! DEFINITION. LUTE and LUTD, the lookup commands (spec/40_lut.md section 4). -/

namespace Sys2Proof.Machine

/-- LUTE: `emit(EncRom(AlphaSel(OPT), i))` (R111). -/
def execLute (opt : Options) (index : BitVec 6) (s : State) : Result :=
  s.respond s.stream (emit [encRom (alphaSel opt) index])

/-- LUTD: `emit(DecRom(AlphaSel(OPT), b))`, "the raw 8-bit entry"; "A sentinel entry is returned as a value, not raised as
an error" (R112). -/
def execLutd (opt : Options) (b : Byte) (s : State) : Result :=
  s.respond s.stream (emit [decRom (alphaSel opt) b])

end Sys2Proof.Machine
end

