-- ==== Sys2Proof/Machine/Stream.lean ====
section
/-! DEFINITION. The stream commands SOPEN, SWR, SFLUSH, SSUSP, SRES, SCLOSE and SSTAT (spec/42_stream.md).

Each sub-rule of SWR is a function `S -> S x response`, the form R10 gives a command's rule. -/

namespace Sys2Proof.Machine

/-- SOPEN: "legal in every state"; it writes all of `S` (R152). -/
def execSopen (opt : Options) (s : State) : Result :=
  s.respond (StreamState.openStream opt) (emit [])

/-- `SwrSuspended(b)`: "the byte bypasses the codec and goes out unchanged, in either direction" (R154). -/
def swrSuspended (b : Byte) (S : StreamState) : StreamState × Rsp :=
  (S.countByte, emit [b])

/-- `S.LINE <- (S.LINE + 4) mod 128` (R155). -/
def StreamState.addLine (S : StreamState) : StreamState := { S with line := S.line + 4 }

/-- "if S.OPT[3] = 1 and S.LINE >= 76" (R155): the line is full and a newline follows. -/
def StreamState.lineFull (S : StreamState) : Bool :=
  optBreakLines S.opt && decide (Config.maxLine ≤ S.line.toNat)

/-- `SwrEncode(b)`: the byte is buffered and counted; the third completes a quantum, which is emitted, with the newline in
the same response when the line is full (R155). -/
def swrEncode (b : Byte) (S : StreamState) : StreamState × Rsp :=
  let S1 := (S.pushByte b).countByte
  if S1.bufcnt.toNat < 3 then (S1, emit [])
  else
    let ys := S1.encodePending 3
    let S2 := S1.clearBuf.addLine
    if S2.lineFull then ({ S2 with line := 0 }, emit (ys ++ [Config.newline]))
    else (S2, emit ys)

/-- `SwrDecodeSymbol(b)`, for a DATA or PAD byte: "The symbol byte itself is buffered. The fourth symbol completes the
quantum" (R157). -/
def swrDecodeSymbol (b : Byte) (S : StreamState) : StreamState × Rsp :=
  if S.bufcnt.toNat < 3 then (S.countByte.pushByte b, emit [])
  else (S.countByte.clearBuf, emit (dec4to3 S.alphabet (lane S.buf 0) (lane S.buf 1) (lane S.buf 2) b))

/-- `SwrDecodeSpace(b)`: "the byte is discarded", and counted (R158). -/
def swrDecodeSpace (S : StreamState) : StreamState × Rsp :=
  (S.countByte, emit [])

/-- `SwrDecodeInvalid(b)`: INVALID_BYTE with the byte and its position, and `S.FSM <- FAILED` (R159). -/
def swrDecodeInvalid (b : Byte) (S : StreamState) : StreamState × Rsp :=
  (S.enterFailed, raise .invalidByte b S.pos)

/-- `SwrDecode(b)`: "the byte is classified through the decode ROM of the stream's alphabet, and the class decides the
sub-rule" (R156). -/
def swrDecode (b : Byte) (S : StreamState) : StreamState × Rsp :=
  match byteClass S.alphabet b with
  | .data => swrDecodeSymbol b S
  | .pad => swrDecodeSymbol b S
  | .ws => swrDecodeSpace S
  | .invalid => swrDecodeInvalid b S

/-- SWR after its gate: suspended first, then by direction (R153). -/
def swrBody (b : Byte) (S : StreamState) : StreamState × Rsp :=
  if S.susp then swrSuspended b S
  else if S.encodes then swrEncode b S
  else swrDecode b S

/-- SWR: `Gate()`, then the body (R153). -/
def execSwr (b : Byte) (s : State) : Result := s.gated (swrBody b)

/-- SFLUSH: `Gate(); Flush()` (R162). -/
def execSflush (s : State) : Result := s.gated flush

/-- SSUSP after its gate: `Flush(); if RSTAT = OK: S.SUSP <- 1` (R163). -/
def ssuspBody (S : StreamState) : StreamState × Rsp :=
  thenIfOk (flush S) fun S' => { S' with susp := true }

/-- SSUSP (R163). -/
def execSsusp (s : State) : Result := s.gated ssuspBody

/-- SRES after its gate: `S.SUSP <- 0; RLEN <- 0; RSTAT <- OK` (R164). -/
def sresBody (S : StreamState) : StreamState × Rsp :=
  ({ S with susp := false }, emit [])

/-- SRES (R164). -/
def execSres (s : State) : Result := s.gated sresBody

/-- SCLOSE after its gate: `Flush(); if RSTAT = OK: S.FSM <- CLOSED; S.SUSP <- 0` (R165). -/
def scloseBody (S : StreamState) : StreamState × Rsp :=
  thenIfOk (flush S) fun S' => { S' with fsm := .closed, susp := false }

/-- SCLOSE (R165). -/
def execSclose (s : State) : Result := s.gated scloseBody

/-- SSTAT's RDATA: `BUF` in 23:0, `BUFCNT` in 25:24, `SUSP` in 26, `FSM` in 28:27, `OPT` in 34:29, `LINE` in 41:35, 0 above
(R166). -/
def statWord (S : StreamState) : BitVec 64 :=
  (S.line.setWidth 64 <<< 35) ||| (S.opt.setWidth 64 <<< 29) ||| (S.fsm.code.setWidth 64 <<< 27)
    ||| ((BitVec.ofBool S.susp).setWidth 64 <<< 26) ||| (S.bufcnt.setWidth 64 <<< 24) ||| S.buf.setWidth 64

/-- SSTAT: "always OK, in every state"; `RPOS <- S.POS; RLEN <- 8` (R166). -/
def execSstat (s : State) : Result :=
  s.respond s.stream { rstat := .ok, rlen := 8, rdata := statWord s.stream, rbyte := 0, rpos := s.stream.pos }

end Sys2Proof.Machine
end

