-- ==== Sys2Proof/Machine/Dispatch.lean ====
section
/-! DEFINITION. One arm per command of spec/opcode_table.json (spec/30_encoding.md R67). -/

namespace Sys2Proof.Machine

def exec (i : Instr) (s : State) : Host.Outcome State Fault Refusal :=
  match i with
  | .nop => Sys2Proof.Machine.execNop s
  | .lute opt index => Sys2Proof.Machine.execLute opt index s
  | .lutd opt b => Sys2Proof.Machine.execLutd opt b s
  | .enc3 opt cnt b0 b1 b2 => Sys2Proof.Machine.execEnc3 opt cnt b0 b1 b2 s
  | .dec4 opt s0 s1 s2 s3 => Sys2Proof.Machine.execDec4 opt s0 s1 s2 s3 s
  | .sopen opt => Sys2Proof.Machine.execSopen opt s
  | .swr b => Sys2Proof.Machine.execSwr b s
  | .sflush => Sys2Proof.Machine.execSflush s
  | .ssusp => Sys2Proof.Machine.execSsusp s
  | .sres => Sys2Proof.Machine.execSres s
  | .sclose => Sys2Proof.Machine.execSclose s
  | .sstat => Sys2Proof.Machine.execSstat s

end Sys2Proof.Machine
end

