-- ==== Sys2Proof/Machine/Step.lean ====
section
/-! DEFINITION. One step: the block takes the host's next input and answers it (spec/00_scope.md R5, spec/10_state.md R21,
spec/70_reset_and_hazards.md R260).

"The block has no program counter and fetches no instructions. The host supplies commands one at a time" (R21): what a step
fetches is the host's next input. -/

namespace Sys2Proof.Machine

/-- The execution of one command word: decoding is total, and "an illegal command is a status, not a trap" (R76). -/
def runCommand (c : CmdWord) (s : State) : Host.Outcome State Fault Refusal :=
  match decode c with
  | .instr i => exec i s
  | .illegal op => execIllegal op s

/-- One step.  With a command next, the block executes it (R5); with a reset next, `S` takes its reset value and no response
is given (R260); with nothing next, the block waits and nothing changes (log entry 3). -/
def step (s : State) : Host.Outcome State Fault Refusal :=
  match s.inputs with
  | [] => .next s
  | .reset :: rest => .next { s with inputs := rest, stream := resetStream s.stream }
  | .command c :: rest => runCommand c { s with inputs := rest }

/-- The host issues the command word `w` as its very next input; nothing else changes.  Commands come from outside the
machine (R21), so this stands for the host's issuing a command (log entry 4). -/
def State.withFetchWord (s : State) (nbits w : Nat) : State :=
  { s with inputs := .command (BitVec.ofNat 64 (w % 2 ^ nbits)) :: s.inputs }

end Sys2Proof.Machine
end

