-- ==== Sys2Proof/Machine/Assembler.lean ====
section
/-! DEFINITION. The assembly language (spec/30_encoding.md section 5): R74's lines, R75's pseudo-instructions and their
expansions, and the words they assemble to.  A line is read as a list of characters.

The lexical grammar is the model's choice where R74 gives none (log entry 9): the escapes inside a quoted operand (`\n`, `\t`,
`\r`, `\xHH` and the quoted quote or backslash), taken from the spec's own examples, and where a character operand `'c'` may
stand. -/

namespace Sys2Proof.Machine

/-! ### Lines and their expansions -/

/-- A line of R74 (a command) or of R75 (a pseudo-instruction). -/
inductive Asm where
  /-- A command of R74. -/
  | instr (i : Instr)
  /-- `SENC <flags>`. -/
  | senc (flags : Options)
  /-- `SDEC <flags>`. -/
  | sdec (flags : Options)
  /-- `SWRS "<text>"` or `SWRS [<b0> ... <bn>]`. -/
  | swrs (bs : List Byte)
  /-- `CLASS <alph>, <byte>`. -/
  | classOf (alph : Options) (b : Byte)
  /-- `ENC1 <alph>, <b0>`. -/
  | enc1 (alph : Options) (b0 : Byte)
  /-- `ENC2 <alph>, <b0> <b1>`. -/
  | enc2 (alph : Options) (b0 b1 : Byte)
deriving DecidableEq, Repr

/-- The expansion of a line (R75). -/
def Asm.expand : Asm → List Instr
  | .instr i => [i]
  | .senc flags => [.sopen (flags ||| 0x01)]
  | .sdec flags => [.sopen (flags &&& 0x3E)]
  | .swrs bs => bs.map .swr
  | .classOf alph b => [.lutd alph b]
  | .enc1 alph b0 => [.enc3 alph 1 b0 0 0]
  | .enc2 alph b0 b1 => [.enc3 alph 2 b0 b1 0]

/-- The words of a line: "The assembler writes `RSV = 0` and every ignored bit as 0" (R74). -/
def Asm.words (l : Asm) : List CmdWord := l.expand.map encode

/-! ### Tokens -/

/-- The tokens of a line. -/
inductive Tok where
  /-- A mnemonic, an alphabet or a flag name. -/
  | name (cs : List Char)
  /-- A number, decimal or `0x` hex (R74). -/
  | num (n : Nat)
  /-- `'c'`, "the ASCII code of `c`" (R74). -/
  | chr (b : Byte)
  /-- A quoted text. -/
  | text (bs : List Byte)
  /-- `,`. -/
  | comma
  /-- `#`. -/
  | hash
  /-- `|`. -/
  | bar
  /-- `[`. -/
  | lbracket
  /-- `]`. -/
  | rbracket
deriving DecidableEq, Repr

/-- The value of a hex digit. -/
def hexDigit (c : Char) : Option Nat :=
  if '0' ≤ c ∧ c ≤ '9' then some (c.toNat - 48)
  else if 'A' ≤ c ∧ c ≤ 'F' then some (c.toNat - 55)
  else if 'a' ≤ c ∧ c ≤ 'f' then some (c.toNat - 87)
  else none

/-- A number's digits in a base, read after the value `acc`. -/
def digits (base acc : Nat) : List Char → Option Nat
  | [] => some acc
  | c :: cs =>
    match hexDigit c with
    | some d => if d < base then digits base (acc * base + d) cs else none
    | none => none

/-- "Numbers are decimal or `0x` hex" (R74). -/
def number : List Char → Option Nat
  | '0' :: 'x' :: c :: cs => digits 16 0 (c :: cs)
  | c :: cs => digits 10 0 (c :: cs)
  | [] => none

/-- One character of a quoted operand: its byte, and what follows. -/
def quotedChar : List Char → Option (Byte × List Char)
  | '\\' :: 'n' :: r => some (0x0A, r)
  | '\\' :: 't' :: r => some (0x09, r)
  | '\\' :: 'r' :: r => some (0x0D, r)
  | '\\' :: '\\' :: r => some (0x5C, r)
  | '\\' :: '\'' :: r => some (0x27, r)
  | '\\' :: '"' :: r => some (0x22, r)
  | '\\' :: 'x' :: h :: l :: r =>
    match hexDigit h, hexDigit l with
    | some vh, some vl => some (BitVec.ofNat 8 (16 * vh + vl), r)
    | _, _ => none
  | c :: r => if c ≠ '\\' ∧ c.toNat < 128 then some (BitVec.ofNat 8 c.toNat, r) else none
  | [] => none

/-- A quoted text up to its closing quote; the first argument bounds the number of characters. -/
def quotedText : Nat → List Char → Option (List Byte × List Char)
  | 0, _ => none
  | n + 1, cs =>
    match cs with
    | '"' :: r => some ([], r)
    | _ =>
      match quotedChar cs with
      | some (b, r) => (quotedText n r).map fun (bs, r') => (b :: bs, r')
      | none => none

/-- A character of a name or a number. -/
def isWordChar (c : Char) : Bool := c.isAlphanum || c == '_'

/-- The token of a run of word characters. -/
def wordTok (w : List Char) : Option Tok :=
  match w with
  | [] => none
  | c :: _ => if c.isDigit then (number w).map .num else some (.name w)

/-- The tokens of a line; `;` begins a comment (R74).  The first argument bounds the number of tokens and blanks. -/
def lex : Nat → List Char → Option (List Tok)
  | 0, _ => none
  | _ + 1, [] => some []
  | n + 1, c :: cs =>
    if c = ';' then some []
    else if c = ' ' ∨ c = '\t' then lex n cs
    else if c = ',' then (lex n cs).map (.comma :: ·)
    else if c = '#' then (lex n cs).map (.hash :: ·)
    else if c = '|' then (lex n cs).map (.bar :: ·)
    else if c = '[' then (lex n cs).map (.lbracket :: ·)
    else if c = ']' then (lex n cs).map (.rbracket :: ·)
    else if c = '\'' then
      match quotedChar cs with
      | some (b, '\'' :: r) => (lex n r).map (.chr b :: ·)
      | _ => none
    else if c = '"' then
      match quotedText (cs.length + 1) cs with
      | some (bs, r) => (lex n r).map (.text bs :: ·)
      | none => none
    else if isWordChar c then
      match wordTok (c :: cs.takeWhile isWordChar) with
      | some t => (lex n (cs.dropWhile isWordChar)).map (t :: ·)
      | none => none
    else none

/-! ### Operands -/

/-- A number below `2 ^ w`. -/
def sized (w n : Nat) : Option (BitVec w) := if n < 2 ^ w then some (BitVec.ofNat w n) else none

/-- `<alph>`: `std` (0x00), `url` (0x10), `ord` (0x20) or `#<value>` (R74). -/
def alphOperand : List Tok → Option (Options × List Tok)
  | .hash :: .num n :: r => (sized 6 n).map (·, r)
  | .name w :: r =>
    if w = "std".toList then some (0x00, r)
    else if w = "url".toList then some (0x10, r)
    else if w = "ord".toList then some (0x20, r)
    else none
  | _ => none

/-- A flag's value: "the names ENCODE, DECODE (the value 0), GZIP, DONT_GUNZIP, DO_BREAK_LINES, URL_SAFE and ORDERED" (R74,
R6). -/
def flagValue (w : List Char) : Option Options :=
  if w = "ENCODE".toList then some 1
  else if w = "DECODE".toList then some 0
  else if w = "GZIP".toList then some 2
  else if w = "DONT_GUNZIP".toList then some 4
  else if w = "DO_BREAK_LINES".toList then some 8
  else if w = "URL_SAFE".toList then some 16
  else if w = "ORDERED".toList then some 32
  else none

/-- Flag names joined by `|` ("Flags are OR-combined", R6), to the end of the line. -/
def flagNames : List Tok → Option Options
  | [.name w] => flagValue w
  | .name w :: .bar :: r => (flagValue w).bind fun v => (flagNames r).map (v ||| ·)
  | _ => none

/-- `<flags>`: "flags joined by '|', or #<value 0..63>" (R74), to the end of the line. -/
def flagsOperand : List Tok → Option Options
  | [.hash, .num n] => sized 6 n
  | ts => flagNames ts

/-- One byte operand, as a number or as a character.  DESIGN CHOICE (log entry 9): R74 writes `'<character>'` in SWR's line only,
and gives `'c'` its value without saying where it may stand.  The model takes it for every byte operand (SWR, LUTD, CLASS, ENC1,
ENC2, and the bytes of a bracketed list), and for no index, count or `#<value>`. -/
def byteTok : Tok → Option Byte
  | .num n => sized 8 n
  | .chr b => some b
  | _ => none

/-- The bytes of a bracketed list, after its `[`, which ends the line. -/
def bracketed : List Tok → Option (List Byte)
  | [.rbracket] => some []
  | t :: r => (byteTok t).bind fun b => (bracketed r).map (b :: ·)
  | [] => none

/-- Bytes in brackets or in quotes, to the end of the line. -/
def bytesOperand : List Tok → Option (List Byte)
  | .lbracket :: r => bracketed r
  | [.text bs] => some bs
  | _ => none

/-- `ENC3`'s bytes: "bytes in stream order; missing bytes are 0" (R74). -/
def enc3Bytes (alph : Options) (cnt : BitVec 2) : List Byte → Option Asm
  | [] => some (.instr (.enc3 alph cnt 0 0 0))
  | [b0] => some (.instr (.enc3 alph cnt b0 0 0))
  | [b0, b1] => some (.instr (.enc3 alph cnt b0 b1 0))
  | [b0, b1, b2] => some (.instr (.enc3 alph cnt b0 b1 b2))
  | _ => none

/-- `DEC4`'s symbols: exactly four (R74). -/
def dec4Bytes (alph : Options) : List Byte → Option Asm
  | [s0, s1, s2, s3] => some (.instr (.dec4 alph s0 s1 s2 s3))
  | _ => none

/-- The operands of a command that takes an alphabet first, after that alphabet. -/
def alphCommand (mnemonic : List Char) (alph : Options) (ts : List Tok) : Option Asm :=
  match ts with
  | [.comma, t] =>
    if mnemonic = "LUTE".toList then
      match t with
      | .num n => (sized 6 n).map fun i => .instr (.lute alph i)
      | _ => none
    else if mnemonic = "LUTD".toList then (byteTok t).map fun b => .instr (.lutd alph b)
    else if mnemonic = "CLASS".toList then (byteTok t).map (.classOf alph)
    else if mnemonic = "ENC1".toList then (byteTok t).map (.enc1 alph)
    else if mnemonic = "DEC4".toList then (bytesOperand [t]).bind (dec4Bytes alph)
    else none
  | [.comma, t0, t1] =>
    if mnemonic = "ENC2".toList then (byteTok t0).bind fun b0 => (byteTok t1).map (.enc2 alph b0) else none
  | .comma :: .num n :: .comma :: r =>
    if mnemonic = "ENC3".toList then
      (sized 2 n).bind fun cnt => match r with
        | .lbracket :: r' => (bracketed r').bind (enc3Bytes alph cnt)
        | _ => none
    else none
  | .comma :: r => if mnemonic = "DEC4".toList then (bytesOperand r).bind (dec4Bytes alph) else none
  | _ => none

/-! ### Lines -/

/-- A line of tokens: a mnemonic and its operands (R74, R75). -/
def parseToks : List Tok → Option Asm
  | [.name w] =>
    if w = "NOP".toList then some (.instr .nop)
    else if w = "SFLUSH".toList then some (.instr .sflush)
    else if w = "SSUSP".toList then some (.instr .ssusp)
    else if w = "SRES".toList then some (.instr .sres)
    else if w = "SCLOSE".toList then some (.instr .sclose)
    else if w = "SSTAT".toList then some (.instr .sstat)
    else none
  | .name w :: r =>
    if w = "SOPEN".toList then (flagsOperand r).map fun f => .instr (.sopen f)
    else if w = "SENC".toList then (flagsOperand r).map .senc
    else if w = "SDEC".toList then (flagsOperand r).map .sdec
    else if w = "SWR".toList then
      match r with
      | [t] => (byteTok t).map fun b => .instr (.swr b)
      | _ => none
    else if w = "SWRS".toList then (bytesOperand r).map .swrs
    else (alphOperand r).bind fun (alph, r') => alphCommand w alph r'
  | _ => none

/-- One line of assembly, or none where it is not of R74's or R75's form. -/
def parseLine (line : List Char) : Option Asm :=
  (lex (line.length + 1) line).bind parseToks

/-- The words of one line of assembly (R74). -/
def assembleLine (line : List Char) : Option (List CmdWord) := (parseLine line).map Asm.words

end Sys2Proof.Machine
end

