-- ==== Sys2Proof/Machine/HostProc.lean ====
section
/-! DEFINITION. The host's side: driving the block, forwarding its output to the sink, and the whole-buffer procedures of
spec/45_host_sequences.md.

These run on the host: "Their local variables ... are host variables, not fields of `S`" (R200).  The conversions are the
block's own functions, which R200 lets the host compute.  The opaque collaborators come as an argument
(`Config.HostParams`). -/

namespace Sys2Proof.Machine

/-! ### Driving the block -/

/-- The host issues the words `cs` one after the other, and the block runs them all: the state after them. -/
def hostIssue (s : State) (cs : List CmdWord) : Result :=
  Host.Core.run Sys2Proof.core cs.length { s with inputs := cs.map .command ++ s.inputs }

/-- The responses the block gives to the words `cs` issued in state `s`, in order. -/
def hostResponses (s : State) (cs : List CmdWord) : List Rsp :=
  match hostIssue s cs with
  | .next t => t.rsps.drop s.rsps.length
  | .fault _ => []
  | .refused _ => []

/-! ### The sink (R42, R72, R214, R265) -/

/-- Whether a command's result bytes are output-stream bytes: "For the stream commands (SWR, SFLUSH, SSUSP, SCLOSE) the
lanes `0..RLEN-1` are output-stream bytes"; for the others "the bytes are a result for the host" (R72). -/
def streamOutput (c : CmdWord) : Bool :=
  match decode c with
  | .instr (.swr _) => true
  | .instr .sflush => true
  | .instr .ssusp => true
  | .instr .sclose => true
  | .instr .nop => false
  | .instr (.lute _ _) => false
  | .instr (.lutd _ _) => false
  | .instr (.enc3 _ _ _ _ _) => false
  | .instr (.dec4 _ _ _ _ _) => false
  | .instr (.sopen _) => false
  | .instr .sres => false
  | .instr .sstat => false
  | .illegal _ => false

/-- What the host does to its sink. -/
inductive SinkEvent where
  /-- One byte is written. -/
  | write (b : Byte)
  /-- The sink is closed. -/
  | close
deriving DecidableEq, Repr

/-- The host's duty after one response: its output-stream bytes "in lane order" (R265); then, "After an SCLOSE that returns
OK, and after forwarding its output bytes, the host closes its sink. It does not close the sink at any other point" (R214). -/
def sinkStep (c : CmdWord) (r : Rsp) : List SinkEvent :=
  (if streamOutput c then r.bytes.map .write else [])
    ++ (if decode c = .instr .sclose ∧ r.rstat = .ok then [.close] else [])

/-- What the host does to its sink over a run of commands and their responses: "All bytes of one response are written before
any byte of a later response" (R265).

DESIGN CHOICE (log entry 17): the spec does not say which sink a stream opened after an OK SCLOSE writes to.  The events are one
list and name no sink, so the writes of such a stream stand after the `close` of the one before; whether the host has another
sink for them, or opened the first again, is left to the host. -/
def sinkEvents : List CmdWord → List Rsp → List SinkEvent
  | c :: cs, r :: rs => sinkStep c r ++ sinkEvents cs rs
  | [], _ => []
  | _ :: _, [] => []

/-- The output stream: "The concatenation of the output bytes of successive responses, in command order" (R42). -/
def outputStream : List CmdWord → List Rsp → List Byte
  | c :: cs, r :: rs => (if streamOutput c then r.bytes else []) ++ outputStream cs rs
  | [], _ => []
  | _ :: _, [] => []

/-- The commands of one stream: `SOPEN o`, one SWR per byte of `d`, SCLOSE (R169, R204). -/
def streamCommands (o : Options) (d : List Byte) : List CmdWord :=
  encode (.sopen o) :: d.map (fun b => encode (.swr b)) ++ [encode .sclose]

/-- The output of one stream run on the block from state `s`. -/
def streamRun (s : State) (o : Options) (d : List Byte) : List Byte :=
  outputStream (streamCommands o d) (hostResponses s (streamCommands o d))

/-! ### Whole-buffer encode (R201 to R204) -/

/-- `BreakIfFull()` writes its newline when DO_BREAK_LINES is set and the line holds 76 symbols (R202, R203). -/
def breakIfFull (brk : Bool) (line : Nat) : List Byte :=
  if brk ∧ Config.maxLine ≤ line then [Config.newline] else []

/-- The line count after `BreakIfFull()` (R202). -/
def lineAfterBreak (brk : Bool) (line : Nat) : Nat :=
  if brk ∧ Config.maxLine ≤ line then 0 else line

/-- The loop of `HostEncode`, from the line count `line`, over the bytes that remain: 3-byte strides, then a final group of
one or two bytes (R202). -/
def hostEncodeLoop (a : Alphabet) (brk : Bool) (line : Nat) : List Byte → List Byte
  | b0 :: b1 :: b2 :: rest =>
    breakIfFull brk line ++ enc3to4 a b0 b1 b2 3 ++ hostEncodeLoop a brk (lineAfterBreak brk line + 4) rest
  | [b0, b1] => breakIfFull brk line ++ enc3to4 a b0 b1 0 2
  | [b0] => breakIfFull brk line ++ enc3to4 a b0 0 0 1
  | [] => []

/-- `HostEncode(d, o)` with GZIP clear (R202). -/
def hostEncodePlain (d : List Byte) (o : Options) : List Byte :=
  hostEncodeLoop (alphaSel o) (optBreakLines o) 0 d

/-- `HostEncode(d, o)`: with GZIP clear the loop of R202; with GZIP set the host compresses `d` and runs the result through
the stream FSM of the block, opened with `o | ENCODE` (R204).  `s` is the block's state when the host begins. -/
def hostEncode (p : Config.HostParams) (s : State) (d : List Byte) (o : Options) : List Byte :=
  if optGzip o then streamRun s (o ||| 1) (p.gzip d) else hostEncodePlain d o

/-! ### Whole-buffer decode (R205 to R210) -/

/-- How `HostDecode` can end. -/
inductive HostResult where
  /-- It returns these bytes. -/
  | bytes (out : List Byte)
  /-- The Underlength-input error, status code 3 (R206, R234). -/
  | underlength
  /-- The Invalid-input-byte error, status code 1: the byte and its 0-based position in the range (R210). -/
  | invalidByte (b : Byte) (pos : Nat)
deriving DecidableEq, Repr

/-- The status a host reports for the result, "in the same taxonomy" (R230, R234). -/
def HostResult.status : HostResult → Status
  | .bytes _ => .ok
  | .underlength => .underlength
  | .invalidByte _ _ => .invalidByte

/-- A DATA or PAD byte of the walk: either it is accumulated into `q`, or it completes the quantum, which is then empty
again (R207).  The answer is the new `q` and the bytes the quantum gives. -/
def hostAccumulate (a : Alphabet) (q : List Byte) (b : Byte) : List Byte × List Byte :=
  match q with
  | [q0, q1, q2] => ([], dec4to3 a q0 q1 q2 b)
  | q => (q ++ [b], [])

/-- The walk of `HostDecode` from position `pos`, with the accumulated symbols `q` and the output `out` so far (R207).  It
stops after "a quantum whose fourth, completing, byte is `=`" (R208), drops a partial quantum at the end (R209), and fails
at the first INVALID byte (R210). -/
def hostDecodeLoop (a : Alphabet) (pos : Nat) (q out : List Byte) : List Byte → HostResult
  | [] => .bytes out
  | b :: rest =>
    match byteClass a b with
    | .invalid => .invalidByte b pos
    | .ws => hostDecodeLoop a (pos + 1) q out rest
    | .data => hostDecodeLoop a (pos + 1) (hostAccumulate a q b).1 (out ++ (hostAccumulate a q b).2) rest
    | .pad =>
      if q.length = 3 then .bytes (out ++ (hostAccumulate a q b).2)
      else hostDecodeLoop a (pos + 1) (hostAccumulate a q b).1 (out ++ (hostAccumulate a q b).2) rest

/-- `HostDecode(e, o)`: "length 0 → empty result immediately" (R205), Underlength-input for lengths 1 to 3 (R206), else the
walk (R207). -/
def hostDecode (e : List Byte) (o : Options) : HostResult :=
  if e.length = 0 then .bytes []
  else if e.length < 4 then .underlength
  else hostDecodeLoop (alphaSel o) 0 [] [] e

/-! ### Text (R211, R213) -/

/-- "the fixed 7-bit ASCII encoding" from bytes to text: the character of a byte below 0x80.  A byte from 0x80 has none; only a
suspended pass-through byte can be one, and R213 makes it the exception (log entry 18). -/
def asciiChar (b : Byte) : Option Char := if b.toNat < 128 then some (Char.ofNat b.toNat) else none

/-- "A host that turns output into text uses the fixed 7-bit ASCII encoding" (R213): the text of output bytes, or none where one
of them is no ASCII code. -/
def hostText : List Byte → Option (List Char)
  | [] => some []
  | b :: bs => (asciiChar b).bind fun c => (hostText bs).map (c :: ·)

/-- A whole-buffer encode as text (R213). -/
def hostEncodeText (p : Config.HostParams) (s : State) (d : List Byte) (o : Options) : Option (List Char) :=
  hostText (hostEncode p s d o)

/-- HOST_STRING_TO_BYTES (R211): "it maps each 7-bit ASCII character to its code" (D47), in whatever string the character
stands; for any other character it gives the bytes the host chooses. -/
def hostStringToBytes (p : Config.HostParams) (t : List Char) : List Byte :=
  t.zipIdx.flatMap fun (c, k) => if c.toNat < 128 then [BitVec.ofNat 8 c.toNat] else p.nonAscii t k

/-! ### String decode with automatic gunzip (R211, R212) -/

/-- The magic number test: "`r[0] | (r[1] << 8) = 0x8B1F`", on results of at least four bytes (R211). -/
def hasGzipMagic (r : List Byte) : Bool :=
  decide (4 ≤ r.length) && decide (r.getD 0 0 = 0x1F) && decide (r.getD 1 0 = 0x8B)

/-- `HostDecodeString(t, o)`: convert, decode, and gunzip a result with the magic number unless DONT_GUNZIP is set (R211);
if the decompression fails, the still-compressed bytes are the result (R212). -/
def hostDecodeString (p : Config.HostParams) (t : List Char) (o : Options) : HostResult :=
  match hostDecode (hostStringToBytes p t) o with
  | .bytes r =>
    if hasGzipMagic r && !optDontGunzip o then
      match p.gunzip r with
      | some z => .bytes z
      | none => .bytes r
    else .bytes r
  | .underlength => .underlength
  | .invalidByte b pos => .invalidByte b pos

end Sys2Proof.Machine
end

