-- ==== Sys2Proof/Safety.lean ====
section
/-! DEFINITION. What is true of `S` between commands, in the terms the statements use (spec/10_state.md R25, R26, R28,
spec/41_quantum.md R138, spec/42_stream.md R168).

A run of the block cannot stop: it has no fault, and every command has a meaning.  So a safe state is one that the rules'
invariants hold in; `State.Inv` collects them. -/

namespace Sys2Proof.Machine

/-- "Lanes at index `>= S.BUFCNT` hold 0" (R25): the buffer's value uses its low `BUFCNT` lanes only. -/
abbrev StreamState.UnusedLanesZero (S : StreamState) : Prop :=
  S.buf.toNat < 2 ^ (8 * S.bufcnt.toNat)

/-- R26: "`S.BUFCNT <= 2` when `DIR = 1`; ... `S.BUFCNT = 0` when `S.SUSP = 1`; `S.BUFCNT = 0` when `S.FSM` is IDLE or
CLOSED".  (`S.BUFCNT <= 3` is its width.) -/
abbrev StreamState.CountLegal (S : StreamState) : Prop :=
  (S.encodes = true → S.bufcnt.toNat ≤ 2) ∧ (S.susp = true → S.bufcnt = 0)
    ∧ (S.fsm = .idle ∨ S.fsm = .closed → S.bufcnt = 0)

/-- R28: the counter counts "in steps of 4"; "With DO_BREAK_LINES set its value at the end of a command is one of 0, 4, ...,
72"; it is not changed "in the decode direction". -/
abbrev StreamState.LineLegal (S : StreamState) : Prop :=
  S.line.toNat % 4 = 0 ∧ (optBreakLines S.opt = true → S.line.toNat ≤ 72) ∧ (S.encodes = false → S.line = 0)

/-- What R168's transitions and R154, R163, R165 leave possible of `S.FSM` and `S.SUSP`: a suspended stream is open, and
only a stream in the decode direction has failed; "IDLE (0) means no stream has been opened since reset" (R23). -/
abbrev StreamState.ModeLegal (S : StreamState) : Prop :=
  (S.susp = true → S.fsm = .opened) ∧ (S.fsm = .failed → S.encodes = false) ∧ (S.fsm = .idle → S = StreamState.reset)

/-- A pending byte that the decode direction may hold: a DATA or PAD symbol of the stream's alphabet (R156, R157). -/
abbrev StreamState.isSymbol (S : StreamState) (b : Byte) : Prop :=
  byteClass S.alphabet b = .data ∨ byteClass S.alphabet b = .pad

/-- "The stream FSM ensures this in the decode direction for INVALID and WS bytes" (R138): every pending byte of a decode
stream is a DATA or PAD symbol. -/
abbrev StreamState.PendingAreSymbols (S : StreamState) : Prop :=
  S.encodes = false → ∀ k < S.bufcnt.toNat, S.isSymbol (lane S.buf k)

/-- The invariant of the block's state between commands. -/
structure StreamState.Inv (S : StreamState) : Prop where
  /-- R25. -/
  unusedLanesZero : S.UnusedLanesZero
  /-- R26. -/
  countLegal : S.CountLegal
  /-- R28. -/
  lineLegal : S.LineLegal
  /-- R23, R154, R163, R165, R168. -/
  modeLegal : S.ModeLegal
  /-- R138. -/
  pendingAreSymbols : S.PendingAreSymbols

/-- The invariant of the machine. -/
def State.Inv (s : State) : Prop := s.stream.Inv

end Sys2Proof.Machine
end

