-- ==== Sys2Proof/Certificates/Slice0/Obligations.lean ====
section
/-! DEFINITION. The statements about base64_core, for the provers.

They are written apart from the machine's own helpers where that is possible: a response's bytes as numbers added up lane by
lane, the fields of a command word as quotients and remainders, the quantum arithmetic on natural numbers.  So a slip in a
shift, a lane or a field of the machine makes one of them false.  Each docstring names the rule of spec/ it formalises. -/

namespace Sys2Proof.Machine

/-! ### Vocabulary of the statements -/

/-- The command `i`, executed in `s`, answers a next state: `S` is then `S'`, the response `r` is added, and nothing else
changes.  (The list that the response is added to is the model's own field, log entry 1.) -/
def Answers (i : Instr) (s : State) (S' : StreamState) (r : Rsp) : Prop :=
  exec i s = .next { stream := S', inputs := s.inputs, rsps := s.rsps ++ [r] }

/-- The command word `c`, issued as the next input in `s` with any inputs after it, is executed by the next step: `S` is then
`S'`, the response `r` is added, and the word is taken.  (The lists of inputs and responses are the model's own, log entries 1
and 2.) -/
def StepAnswers (c : CmdWord) (s : State) (S' : StreamState) (r : Rsp) : Prop :=
  ∀ rest : List Input, step { s with inputs := .command c :: rest }
    = .next { stream := S', inputs := rest, rsps := s.rsps ++ [r] }

/-- `OP = C[63:60]` as a number (R60). -/
def opNumber (c : CmdWord) : Nat := c.toNat / 2 ^ 60

/-- `OPT = C[59:54]` (R60). -/
def optOf (c : CmdWord) : Options := BitVec.ofNat 6 (c.toNat / 2 ^ 54)

/-- DATA lane `k`, `C[8k+7:8k]` (R44, R60). -/
def dataLane (c : CmdWord) (k : Nat) : Byte := BitVec.ofNat 8 (c.toNat / 2 ^ (8 * k))

/-- Bytes as numbers put into lanes, the first in lane 0 (R44). -/
def laneSum : List Nat → Nat
  | [] => 0
  | x :: xs => x + 256 * laneSum xs

/-- The OK response that carries these bytes: RDATA their lanes, RLEN their number, RBYTE and RPOS 0 (R71, R72). -/
def okBytes (xs : List Nat) : Rsp :=
  { rstat := .ok, rlen := BitVec.ofNat 4 xs.length, rdata := BitVec.ofNat 64 (laneSum xs), rbyte := 0, rpos := 0 }

/-- The response of a raised status: RLEN and RDATA 0 (R231). -/
def statusOnly (st : Status) (b : Byte) (p : BitVec 32) : Rsp :=
  { rstat := st, rlen := 0, rdata := 0, rbyte := b, rpos := p }

/-- The four symbols of a quantum with `n` significant bytes (R43, R130, R131), on numbers. -/
def quantumSymbols (a : Alphabet) (b0 b1 b2 n : Nat) : List Nat :=
  let t := b0 * 2 ^ 16 + (if 2 ≤ n then b1 else 0) * 2 ^ 8 + (if 3 ≤ n then b2 else 0)
  let y := fun shift : Nat => (encRom a (BitVec.ofNat 6 (t / 2 ^ shift))).toNat
  [y 18, y 12, if 2 ≤ n then y 6 else 0x3D, if 3 ≤ n then y 0 else 0x3D]

/-- The bytes a decode quantum gives (R134 to R137), on numbers: raw entries shifted and ORed, bits 23:0 kept. -/
def quantumBytes (a : Alphabet) (s0 s1 s2 s3 : Byte) : List Nat :=
  let e := fun s : Byte => (decRom a s).toNat
  if s2.toNat = 0x3D then
    let t := e s0 * 2 ^ 18 ||| e s1 * 2 ^ 12
    [t / 2 ^ 16 % 256]
  else if s3.toNat = 0x3D then
    let t := e s0 * 2 ^ 18 ||| e s1 * 2 ^ 12 ||| e s2 * 2 ^ 6
    [t / 2 ^ 16 % 256, t / 2 ^ 8 % 256]
  else
    let t := e s0 * 2 ^ 18 ||| e s1 * 2 ^ 12 ||| e s2 * 2 ^ 6 ||| e s3
    [t / 2 ^ 16 % 256, t / 2 ^ 8 % 256, t % 256]

/-- The commands that `Gate()` comes first in (R151). -/
def isGated : Instr → Bool
  | .swr _ | .sflush | .ssusp | .sres | .sclose => true
  | .nop | .lute _ _ | .lutd _ _ | .enc3 _ _ _ _ _ | .dec4 _ _ _ _ _ | .sopen _ | .sstat => false

/-- `Gate()` stops the command `i` in `s` outside OPEN: the gate's status, and `S` unchanged (R151). -/
def GateStops (i : Instr) (s : State) : Prop :=
  (s.stream.fsm = .idle → Answers i s s.stream (statusOnly .notOpen 0 0)) ∧
  (s.stream.fsm = .closed → Answers i s s.stream (statusOnly .streamClosed 0 0)) ∧
  (s.stream.fsm = .failed → Answers i s s.stream (statusOnly .streamFailed 0 0))

/-- The bits that a command with opcode `op` reads (R66), its opcode among them: OPT's bits 5:4 where R66 says so. -/
def readBits (op : Nat) : CmdWord :=
  match op with
  | 0x1 => 0xFC0000000000003F#64
  | 0x2 => 0xFC000000000000FF#64
  | 0x3 => 0xFC30000000FFFFFF#64
  | 0x4 => 0xFC000000FFFFFFFF#64
  | 0x5 => 0xFFC0000000000000#64
  | 0x6 => 0xF0000000000000FF#64
  | _   => 0xF000000000000000#64

/-- The non-stream commands (R141). -/
def isNonStream : Instr → Bool
  | .nop | .lute _ _ | .lutd _ _ | .enc3 _ _ _ _ _ | .dec4 _ _ _ _ _ => true
  | .sopen _ | .swr _ | .sflush | .ssusp | .sres | .sclose | .sstat => false

/-- The rows of R168 for a gated command: the gate's status with the state unchanged, or in OPEN the given pair. -/
def gatedRow (f : Fsm) (inOpen : Fsm × Status) : Fsm × Status :=
  match f with
  | .idle => (.idle, .notOpen)
  | .closed => (.closed, .streamClosed)
  | .failed => (.failed, .streamFailed)
  | .opened => inOpen

/-- R168's table: the next state and the status, from the state and the command. -/
def transitionTable (S : StreamState) : Command → Fsm × Status
  | .illegal _ => (S.fsm, .illegal)
  | .instr .nop | .instr (.lute _ _) | .instr (.lutd _ _) | .instr (.enc3 _ _ _ _ _) | .instr (.dec4 _ _ _ _ _)
  | .instr .sstat => (S.fsm, .ok)
  | .instr (.sopen _) => (.opened, .ok)
  | .instr (.swr b) =>
    gatedRow S.fsm (if S.susp = false ∧ S.encodes = false ∧ byteClass S.alphabet b = .invalid
      then (.failed, .invalidByte) else (.opened, .ok))
  | .instr .sflush | .instr .ssusp =>
    gatedRow S.fsm (if S.encodes = false ∧ S.bufcnt ≠ 0 then (.failed, .badPadding) else (.opened, .ok))
  | .instr .sres => gatedRow S.fsm (.opened, .ok)
  | .instr .sclose =>
    gatedRow S.fsm (if S.encodes = false ∧ S.bufcnt ≠ 0 then (.failed, .badPadding) else (.closed, .ok))

/-- R73's table: the lengths an OK response to the command may have. -/
def okLengths (S : StreamState) : Command → List Nat
  | .instr .nop | .instr (.sopen _) | .instr .sres => [0]
  | .instr (.lute _ _) | .instr (.lutd _ _) => [1]
  | .instr (.enc3 _ cnt _ _ _) => if cnt = 0 then [0] else [4]
  | .instr (.dec4 _ _ _ _ _) => [1, 2, 3]
  | .instr (.swr _) =>
    if S.susp then [1] else if S.encodes then (if optBreakLines S.opt then [0, 4, 5] else [0, 4]) else [0, 1, 2, 3]
  | .instr .sflush | .instr .ssusp | .instr .sclose => if S.encodes then [0, 4] else [0]
  | .instr .sstat => [8]
  | .illegal _ => []

/-- A byte that decoding accumulates: class DATA or PAD (R207). -/
def isSymbolOf (a : Alphabet) (b : Byte) : Prop := byteClass a b = .data ∨ byteClass a b = .pad

/-- Encoded output under the alphabet `a`: NEWLINE, `=` or a symbol, a 7-bit code (R213). -/
def IsEncodedByte (a : Alphabet) (b : Byte) : Prop :=
  b.toNat < 128 ∧ (b = 0x0A ∨ b = 0x3D ∨ ∃ i, b = encRom a i)

/-- Whether a command's result bytes are encoded output, and of which alphabet: LUTE, ENC3, and in the encode direction an SWR
that is not suspended and every flush.  (The other bytes are decoded data, raw entries, SSTAT's fields and suspended bytes.) -/
def encodedOutputOf (S : StreamState) : Command → Option Alphabet
  | .instr (.lute opt _) | .instr (.enc3 opt _ _ _ _) => some (alphaSel opt)
  | .instr (.swr _) => if S.susp = false ∧ optEncode S.opt = true then some (alphaSel S.opt) else none
  | .instr .sflush | .instr .ssusp | .instr .sclose =>
    if optEncode S.opt = true then some (alphaSel S.opt) else none
  | .instr .nop | .instr (.lutd _ _) | .instr (.dec4 _ _ _ _ _) | .instr (.sopen _) | .instr .sres | .instr .sstat
  | .illegal _ => none

/-- The length of a whole-buffer encode (R201). -/
def encodedLength (n : Nat) (brk : Bool) : Nat :=
  let sym := 4 * ((n + 2) / 3)
  if brk ∧ 0 < sym then sym + (sym - 1) / 76 else sym

/-- The one byte by which the stream's output exceeds the whole-buffer encode's (R169, C3). -/
def trailingNewline (o : Options) (n : Nat) : List Byte :=
  if optBreakLines o ∧ 0 < n ∧ n % 3 = 0 ∧ 4 * n / 3 % 76 = 0 then [0x0A] else []

end Sys2Proof.Machine

open Sys2Proof Sys2Proof.Machine

/-! ### Alphabets and ROMs (spec/40_lut.md) -/

/-- R6, R24, R100: the bits of an options value, on numbers, and of `S.OPT` the direction and the alphabet; URL_SAFE first, then
ORDERED, default Standard; no other bit has an effect on the alphabet; the two examples. -/
def Obligations.OptionBitsAndAlphabetSelect : Prop :=
  (∀ opt : Options,
    (optEncode opt = true ↔ opt.toNat % 2 = 1) ∧ (optGzip opt = true ↔ opt.toNat / 2 % 2 = 1) ∧
    (optDontGunzip opt = true ↔ opt.toNat / 4 % 2 = 1) ∧ (optBreakLines opt = true ↔ opt.toNat / 8 % 2 = 1)) ∧
  (∀ S : StreamState, (S.encodes = true ↔ S.opt.toNat % 2 = 1) ∧ S.alphabet = alphaSel S.opt) ∧
  (∀ opt : Options, alphaSel opt =
    if opt.toNat / 16 % 2 = 1 then .urlSafe else if opt.toNat / 32 % 2 = 1 then .ordered else .standard) ∧
  (∀ opt opt' : Options, opt.toNat / 16 = opt'.toNat / 16 → alphaSel opt = alphaSel opt') ∧
  alphaSel 0x30 = .urlSafe ∧ alphaSel 0x21 = .ordered

/-- R101 to R103: the contents of the three encode ROMs by runs of consecutive character codes, all 64 symbols of each
distinct 7-bit codes, none of them `=` or whitespace. -/
def Obligations.EncodeRomContents : Prop :=
  (∀ i : BitVec 6, (encRom .standard i).toNat =
    if i.toNat < 26 then 0x41 + i.toNat
    else if i.toNat < 52 then 0x61 + (i.toNat - 26)
    else if i.toNat < 62 then 0x30 + (i.toNat - 52)
    else if i.toNat = 62 then 0x2B else 0x2F) ∧
  (∀ i : BitVec 6, (encRom .urlSafe i).toNat =
    if i.toNat = 62 then 0x2D else if i.toNat = 63 then 0x5F else (encRom .standard i).toNat) ∧
  (∀ i : BitVec 6, (encRom .ordered i).toNat =
    if i.toNat = 0 then 0x2D
    else if i.toNat < 11 then 0x30 + (i.toNat - 1)
    else if i.toNat < 37 then 0x41 + (i.toNat - 11)
    else if i.toNat = 37 then 0x5F
    else 0x61 + (i.toNat - 38)) ∧
  (∀ (a : Alphabet) (i j : BitVec 6), (encRom a i).toNat < 128 ∧ (encRom a i = encRom a j → i = j) ∧
    encRom a i ∉ ([0x3D, 0x09, 0x0A, 0x0D, 0x20] : List Byte))

/-- R106: each decode ROM is the inverse of its encode ROM, with WS, PAD and INVALID elsewhere; bytes from 0x80 are
INVALID. -/
def Obligations.DecodeRomConstruction : Prop :=
  ∀ (a : Alphabet) (b : Byte),
    (∀ i : BitVec 6, encRom a i = b → decRom a b = i.setWidth 8) ∧
    ((∀ i : BitVec 6, encRom a i ≠ b) →
      decRom a b =
        if b = 0x09 ∨ b = 0x0A ∨ b = 0x0D ∨ b = 0x20 then 0xFB else if b = 0x3D then 0xFF else 0xF7) ∧
    (128 ≤ b.toNat → decRom a b = 0xF7)

/-- R105, R110: the class of every 8-bit entry, and no ROM holds an INVALID entry but 0xF7; the decode ROM inverts the encode
ROM; each encode ROM is injective; how many bytes have each class; the Ordered encode ROM is strictly increasing. -/
def Obligations.RomProperties : Prop :=
  (∀ e : Byte, classOf e =
    if e.toNat < 64 then .data else if e.toNat = 0xFB then .ws else if e.toNat = 0xFF then .pad else .invalid) ∧
  (∀ (a : Alphabet) (b : Byte), classOf (decRom a b) = .invalid → decRom a b = 0xF7) ∧
  (∀ (a : Alphabet) (i : BitVec 6), decRom a (encRom a i) = i.setWidth 8) ∧
  (∀ (a : Alphabet) (i j : BitVec 6), encRom a i = encRom a j → i = j) ∧
  (∀ a : Alphabet,
    let count := fun c : SymClass =>
      ((List.range 256).filter fun n => byteClass a (BitVec.ofNat 8 n) = c).length
    count .data = 64 ∧ count .ws = 4 ∧ count .pad = 1 ∧ count .invalid = 187 ∧
    byteClass a 0x09 = .ws ∧ byteClass a 0x0A = .ws ∧ byteClass a 0x0D = .ws ∧ byteClass a 0x20 = .ws ∧
    byteClass a 0x3D = .pad) ∧
  (∀ i j : BitVec 6, i.toNat < j.toNat → (encRom .ordered i).toNat < (encRom .ordered j).toNat)

/-! ### Decoding and encoding (spec/30_encoding.md) -/

/-- R61, R67, R76: OP alone chooses the outcome: one of the twelve commands below 0xC, illegal from 0xC, for every word. -/
def Obligations.DecoderIsTotal : Prop :=
  ∀ c : CmdWord,
    (opNumber c < 12 → ∃ i, decode c = .instr i ∧ i.opcode.toNat = opNumber c) ∧
    (12 ≤ opNumber c → decode c = .illegal (BitVec.ofNat 4 (opNumber c)))

/-- R66's rows and R62, on every word: which command each OP is and which bits are its operands.  For LUTE, LUTD, ENC3 and DEC4
the operand is OPT whole (R62), of which R66 names the bits 5:4; keeping it whole is log entry 10 (DEDUCED), and
`OnlyReadBitsMatter` says that the other bits have no effect. -/
def Obligations.OperandsAreTheTablesFields : Prop :=
  ∀ c : CmdWord,
    (opNumber c = 0x0 → decode c = .instr .nop) ∧
    (opNumber c = 0x1 → decode c = .instr (.lute (optOf c) (BitVec.ofNat 6 c.toNat))) ∧
    (opNumber c = 0x2 → decode c = .instr (.lutd (optOf c) (dataLane c 0))) ∧
    (opNumber c = 0x3 → decode c = .instr (.enc3 (optOf c) (BitVec.ofNat 2 (c.toNat / 2 ^ 52))
      (dataLane c 0) (dataLane c 1) (dataLane c 2))) ∧
    (opNumber c = 0x4 → decode c = .instr (.dec4 (optOf c)
      (dataLane c 0) (dataLane c 1) (dataLane c 2) (dataLane c 3))) ∧
    (opNumber c = 0x5 → decode c = .instr (.sopen (optOf c))) ∧
    (opNumber c = 0x6 → decode c = .instr (.swr (dataLane c 0))) ∧
    (opNumber c = 0x7 → decode c = .instr .sflush) ∧
    (opNumber c = 0x8 → decode c = .instr .ssusp) ∧
    (opNumber c = 0x9 → decode c = .instr .sres) ∧
    (opNumber c = 0xA → decode c = .instr .sclose) ∧
    (opNumber c = 0xB → decode c = .instr .sstat)

/-- Decoding an encoded command gives it back with every operand, and the encoded word is the assembler's (R60, R66, R74).
Encoding what was decoded keeps OP and the operands' fields, OPT whole (R62; log entry 10), and clears the other bits; so a word
the assembler could have written comes back. -/
def Obligations.DecodeEncodeRoundTrip : Prop :=
  (∀ i : Instr, i.wellFormed = true → decode (encode i) = .instr i ∧ canonicalWord (encode i) = true) ∧
  (∀ (c : CmdWord) (i : Instr), decode c = .instr i →
    encode i = c &&& readMask (BitVec.ofNat 4 (opNumber c)) ∧ (canonicalWord c = true → encode i = c))

/-- R64: two words of one opcode that agree on the bits R66 lets their command read have the same outcome in every state,
whatever RSV and the other ignored bits hold. -/
def Obligations.OnlyReadBitsMatter : Prop :=
  ∀ c c' : CmdWord, opNumber c = opNumber c' → c &&& readBits (opNumber c) = c' &&& readBits (opNumber c) →
    ∀ s : State, ∃ (S' : StreamState) (r : Rsp), StepAnswers c s S' r ∧ StepAnswers c' s S' r

/-- Words written out from R60's fields decode to the commands they stand for (spec/95_test_vectors.md sections 1 to 3), one of
them with RSV all ones and a nonzero lane above ENC3's three bytes. -/
def Obligations.WrittenOutWordsDecode : Prop :=
  decode 0x0000000000000000#64 = .instr .nop ∧
  decode 0x140000000000003E#64 = .instr (.lute 0x10 62) ∧
  decode 0x20000000000000C1#64 = .instr (.lutd 0x00 0xC1) ∧
  decode 0x30300000006E614D#64 = .instr (.enc3 0x00 3 0x4D 0x61 0x6E) ∧
  decode 0x303FFFFFAB6E614D#64 = .instr (.enc3 0x00 3 0x4D 0x61 0x6E) ∧
  decode 0x400000003D455754#64 = .instr (.dec4 0x00 0x54 0x57 0x45 0x3D) ∧
  decode 0x5640000000000000#64 = .instr (.sopen 0x19) ∧
  decode 0x600000000000002A#64 = .instr (.swr 0x2A) ∧
  decode 0xA000000000000000#64 = .instr .sclose ∧
  decode 0xC000000000000000#64 = .illegal 0xC

/-! ### The stateless commands (spec/40_lut.md, spec/41_quantum.md) -/

/-- R140: NOP answers OK with nothing, changes nothing, and ignores every other field of its word. -/
def Obligations.NopAnswersOk : Prop :=
  (∀ s : State, Answers .nop s s.stream (okBytes [])) ∧
  (∀ c : CmdWord, opNumber c = 0x0 → decode c = .instr .nop) ∧ decode 0 = .instr .nop

/-- R111: LUTE emits the encode ROM's entry. -/
def Obligations.LuteReturnsEncodeEntry : Prop :=
  (∀ (opt : Options) (i : BitVec 6) (s : State),
    Answers (.lute opt i) s s.stream (okBytes [(encRom (alphaSel opt) i).toNat])) ∧
  (∀ c : CmdWord, opNumber c = 0x1 → decode c = .instr (.lute (optOf c) (BitVec.ofNat 6 c.toNat))) ∧
  (∀ s : State, Answers (.lute 0x10 62) s s.stream (okBytes [0x2D]))

/-- R112: LUTD emits the decode ROM's raw entry, a sentinel like a value. -/
def Obligations.LutdReturnsRawEntry : Prop :=
  (∀ (opt : Options) (b : Byte) (s : State),
    Answers (.lutd opt b) s s.stream (okBytes [(decRom (alphaSel opt) b).toNat])) ∧
  (∀ c : CmdWord, opNumber c = 0x2 → decode c = .instr (.lutd (optOf c) (dataLane c 0))) ∧
  (∀ (opt : Options) (b : Byte) (s : State), 0x80 ≤ b.toNat → Answers (.lutd opt b) s s.stream (okBytes [0xF7])) ∧
  (∀ s : State, Answers (.lutd 0x00 0x3D) s s.stream (okBytes [0xFF]) ∧
    Answers (.lutd 0x00 0x09) s s.stream (okBytes [0xFB]))

/-- R130, R131, R132, R133: ENC3 emits the quantum's four symbols with `=` for what is missing, and nothing for count 0. -/
def Obligations.Enc3EncodesQuantum : Prop :=
  (∀ (opt : Options) (cnt : BitVec 2) (b0 b1 b2 : Byte) (s : State),
    Answers (.enc3 opt cnt b0 b1 b2) s s.stream
      (okBytes (if cnt = 0 then []
        else quantumSymbols (alphaSel opt) b0.toNat b1.toNat b2.toNat cnt.toNat))) ∧
  (∀ c : CmdWord, opNumber c = 0x3 → decode c = .instr (.enc3 (optOf c) (BitVec.ofNat 2 (c.toNat / 2 ^ 52))
    (dataLane c 0) (dataLane c 1) (dataLane c 2))) ∧
  (∀ s : State, Answers (.enc3 0x00 3 0x4D 0x61 0x6E) s s.stream (okBytes [0x54, 0x57, 0x46, 0x75]))

/-- R134 to R137, R139: DEC4 chooses its path by the third and then the fourth symbol and emits 1, 2 or 3 bytes of the
shifted and ORed raw entries, rejecting nothing. -/
def Obligations.Dec4DecodesQuantum : Prop :=
  (∀ (opt : Options) (s0 s1 s2 s3 : Byte) (s : State),
    Answers (.dec4 opt s0 s1 s2 s3) s s.stream (okBytes (quantumBytes (alphaSel opt) s0 s1 s2 s3))) ∧
  (∀ c : CmdWord, opNumber c = 0x4 → decode c = .instr (.dec4 (optOf c)
    (dataLane c 0) (dataLane c 1) (dataLane c 2) (dataLane c 3))) ∧
  (∀ s : State, Answers (.dec4 0x00 0x54 0x57 0x46 0x75) s s.stream (okBytes [0x4D, 0x61, 0x6E]) ∧
    Answers (.dec4 0x00 0x54 0x57 0x00 0x75) s s.stream (okBytes [0x4D, 0x7D, 0xEE]) ∧
    Answers (.dec4 0x00 0x54 0x57 0x80 0x75) s s.stream (okBytes [0x4D, 0x7D, 0xEE]) ∧
    Answers (.dec4 0x00 0x3D 0x3D 0x3D 0x3D) s s.stream (okBytes [0xFF]))

/-- R137 on DATA symbols: "exactly the source's 6-bit packing, because the fields do not overlap": the bytes are those of
the 24-bit number with the four values as its base-64 digits. -/
def Obligations.DataSymbolsPackSixBitsEach : Prop :=
  ∀ (a : Alphabet) (v0 v1 v2 v3 : BitVec 6),
    let t := ((v0.toNat * 64 + v1.toNat) * 64 + v2.toNat) * 64 + v3.toNat
    (dec4to3 a (encRom a v0) (encRom a v1) (encRom a v2) (encRom a v3)).map BitVec.toNat
      = [t / 2 ^ 16, t / 2 ^ 8 % 256, t % 256]

/-- C1's ground for the order of the padding tests: decoding an encoded quantum gives its significant bytes back, for every
alphabet, count and byte. -/
def Obligations.QuantumRoundTrip : Prop :=
  ∀ (a : Alphabet) (b0 b1 b2 : Byte) (n : BitVec 2), n ≠ 0 →
    ∃ y0 y1 y2 y3, enc3to4 a b0 b1 b2 n = [y0, y1, y2, y3] ∧
      dec4to3 a y0 y1 y2 y3 = [b0, b1, b2].take n.toNat

/-- R141: NOP, LUTE, LUTD, ENC3 and DEC4 answer the same in every stream state, leave `S` as it is, and do not change what
any other command does. -/
def Obligations.NonStreamCommandsIgnoreStream : Prop :=
  ∀ i : Instr, isNonStream i = true → ∃ r : Rsp, r.rstat = .ok ∧ ∀ s : State, Answers i s s.stream r ∧
    ∀ t : State, exec i s = .next t → ∀ j : Instr, ∃ (S' : StreamState) (r' : Rsp), Answers j s S' r' ∧ Answers j t S' r'

/-! ### The stream commands (spec/42_stream.md) -/

/-- R152: SOPEN writes all of `S` in every state and answers OK. -/
def Obligations.SopenOpensFreshStream : Prop :=
  (∀ (opt : Options) (s : State),
    Answers (.sopen opt) s { fsm := .opened, opt := opt, buf := 0, bufcnt := 0, susp := false, line := 0, pos := 0 }
      (okBytes [])) ∧
  (∀ c : CmdWord, opNumber c = 0x5 → decode c = .instr (.sopen (optOf c))) ∧
  decode 0x5240000000000000#64 = .instr (.sopen 0x09)

/-- R151: outside OPEN every gated command answers the gate's status and changes nothing; SOPEN and SSTAT are not gated. -/
def Obligations.GateStopsOutsideOpen : Prop :=
  (∀ (i : Instr) (s : State), isGated i = true → GateStops i s) ∧
  (∀ (opt : Options) (s : State), ∃ (S' : StreamState) (r : Rsp), Answers (.sopen opt) s S' r ∧ r.rstat = .ok) ∧
  (∀ s : State, ∃ r : Rsp, Answers .sstat s s.stream r ∧ r.rstat = .ok)

/-- R154: a suspended stream passes the byte through unchanged, in either direction and of any class, and counts it. -/
def Obligations.SwrSuspendedPassesByte : Prop :=
  ∀ (b : Byte) (s : State), s.stream.fsm = .opened → s.stream.susp = true →
    Answers (.swr b) s { s.stream with pos := s.stream.pos + 1 } (okBytes [b.toNat])

/-- R155: the encode direction buffers a first and a second byte, and encodes the quantum at the third, with the newline in
the same response when DO_BREAK_LINES is set and the line has reached 76.  (BUFCNT is at most 2 in this direction: R26,
stated as an invariant of its own.) -/
def Obligations.SwrEncodeBuffersAndEncodes : Prop :=
  ∀ (b : Byte) (s : State), s.stream.fsm = .opened → s.stream.susp = false → optEncode s.stream.opt = true →
    (s.stream.bufcnt.toNat < 2 → ∃ buf' : BitVec 24,
      (∀ k < 3, lane buf' k = if k = s.stream.bufcnt.toNat then b else lane s.stream.buf k) ∧
      Answers (.swr b) s
        { s.stream with buf := buf', bufcnt := s.stream.bufcnt + 1, pos := s.stream.pos + 1 } (okBytes [])) ∧
    (s.stream.bufcnt.toNat = 2 →
      let newLine := (s.stream.line.toNat + 4) % 128
      let full := optBreakLines s.stream.opt = true ∧ 76 ≤ newLine
      Answers (.swr b) s
        { s.stream with buf := 0, bufcnt := 0, pos := s.stream.pos + 1,
                        line := if full then 0 else BitVec.ofNat 7 newLine }
        (okBytes (quantumSymbols (alphaSel s.stream.opt)
          (lane s.stream.buf 0).toNat (lane s.stream.buf 1).toNat b.toNat 3 ++ if full then [0x0A] else [])))

/-- R157: in the decode direction a DATA or PAD byte is buffered as it is, and the fourth completes the quantum, which is
decoded and emitted. -/
def Obligations.SwrDecodeSymbolBuffersAndDecodes : Prop :=
  ∀ (b : Byte) (s : State), s.stream.fsm = .opened → s.stream.susp = false → optEncode s.stream.opt = false →
    isSymbolOf (alphaSel s.stream.opt) b →
    (s.stream.bufcnt.toNat < 3 → ∃ buf' : BitVec 24,
      (∀ k < 3, lane buf' k = if k = s.stream.bufcnt.toNat then b else lane s.stream.buf k) ∧
      Answers (.swr b) s
        { s.stream with buf := buf', bufcnt := s.stream.bufcnt + 1, pos := s.stream.pos + 1 } (okBytes [])) ∧
    (s.stream.bufcnt.toNat = 3 →
      Answers (.swr b) s { s.stream with buf := 0, bufcnt := 0, pos := s.stream.pos + 1 }
        (okBytes (quantumBytes (alphaSel s.stream.opt)
          (lane s.stream.buf 0) (lane s.stream.buf 1) (lane s.stream.buf 2) b)))

/-- R158: whitespace is discarded and counted. -/
def Obligations.SwrDecodeSpaceIsDiscarded : Prop :=
  ∀ (b : Byte) (s : State), s.stream.fsm = .opened → s.stream.susp = false → optEncode s.stream.opt = false →
    b ∈ ([0x09, 0x0A, 0x0D, 0x20] : List Byte) →
    Answers (.swr b) s { s.stream with pos := s.stream.pos + 1 } (okBytes [])

/-- R159, R232: an INVALID byte answers INVALID_BYTE with the byte and its position, and only `S.FSM` changes, to FAILED;
the commands but SOPEN and SSTAT that meet the stream so then answer STREAM_FAILED. -/
def Obligations.SwrDecodeInvalidFails : Prop :=
  ∀ (b : Byte) (s : State), s.stream.fsm = .opened → s.stream.susp = false → optEncode s.stream.opt = false →
    byteClass (alphaSel s.stream.opt) b = .invalid →
    Answers (.swr b) s { s.stream with fsm := .failed } (statusOnly .invalidByte b s.stream.pos) ∧
    ∀ (t : State) (i : Instr), t.stream = { s.stream with fsm := .failed } → isGated i = true →
      Answers i t t.stream (statusOnly .streamFailed 0 0)

/-- R161, R162: gated; SFLUSH with nothing pending, with a partial quantum to encode, with symbols pending in the decode
direction. -/
def Obligations.SflushFlushesPartialQuantum : Prop :=
  ∀ s : State, GateStops .sflush s ∧ (s.stream.fsm = .opened →
    (s.stream.bufcnt = 0 → Answers .sflush s s.stream (okBytes [])) ∧
    (s.stream.bufcnt ≠ 0 → optEncode s.stream.opt = true →
      Answers .sflush s { s.stream with buf := 0, bufcnt := 0 }
        (okBytes (quantumSymbols (alphaSel s.stream.opt) (lane s.stream.buf 0).toNat (lane s.stream.buf 1).toNat
          (lane s.stream.buf 2).toNat s.stream.bufcnt.toNat))) ∧
    (s.stream.bufcnt ≠ 0 → optEncode s.stream.opt = false →
      Answers .sflush s { s.stream with fsm := .failed } (statusOnly .badPadding 0 s.stream.pos)))

/-- R161, R163: gated; SSUSP flushes in the same response and sets SUSP, unless the flush fails. -/
def Obligations.SsuspFlushesAndSuspends : Prop :=
  ∀ s : State, GateStops .ssusp s ∧ (s.stream.fsm = .opened →
    (s.stream.bufcnt = 0 → Answers .ssusp s { s.stream with susp := true } (okBytes [])) ∧
    (s.stream.bufcnt ≠ 0 → optEncode s.stream.opt = true →
      Answers .ssusp s { s.stream with buf := 0, bufcnt := 0, susp := true }
        (okBytes (quantumSymbols (alphaSel s.stream.opt) (lane s.stream.buf 0).toNat (lane s.stream.buf 1).toNat
          (lane s.stream.buf 2).toNat s.stream.bufcnt.toNat))) ∧
    (s.stream.bufcnt ≠ 0 → optEncode s.stream.opt = false →
      Answers .ssusp s { s.stream with fsm := .failed } (statusOnly .badPadding 0 s.stream.pos)))

/-- R164: gated; SRES clears SUSP and nothing else. -/
def Obligations.SresResumes : Prop :=
  ∀ s : State, GateStops .sres s ∧
    (s.stream.fsm = .opened → Answers .sres s { s.stream with susp := false } (okBytes []))

/-- R161, R165: gated; SCLOSE flushes in the same response, and then the stream is CLOSED and not suspended, LINE, POS and OPT
kept; in the decode direction with symbols pending it is FAILED instead. -/
def Obligations.ScloseFlushesAndCloses : Prop :=
  ∀ s : State, GateStops .sclose s ∧ (s.stream.fsm = .opened →
    (s.stream.bufcnt = 0 → Answers .sclose s { s.stream with fsm := .closed, susp := false } (okBytes [])) ∧
    (s.stream.bufcnt ≠ 0 → optEncode s.stream.opt = true →
      Answers .sclose s { s.stream with buf := 0, bufcnt := 0, fsm := .closed, susp := false }
        (okBytes (quantumSymbols (alphaSel s.stream.opt) (lane s.stream.buf 0).toNat (lane s.stream.buf 1).toNat
          (lane s.stream.buf 2).toNat s.stream.bufcnt.toNat))) ∧
    (s.stream.bufcnt ≠ 0 → optEncode s.stream.opt = false →
      Answers .sclose s { s.stream with fsm := .failed } (statusOnly .badPadding 0 s.stream.pos)))

/-- R166: SSTAT answers every field of `S` in its bits, in every state, and changes nothing, the numbers of S.FSM being R22's; so
"every state field is observable" (D39): no state with another `S` gives the same response. -/
def Obligations.SstatReadsEveryField : Prop :=
  (Fsm.code .idle = 0 ∧ Fsm.code .opened = 1 ∧ Fsm.code .closed = 2 ∧ Fsm.code .failed = 3) ∧
  ∀ s : State, ∃ r : Rsp, Answers .sstat s s.stream r ∧ r.rstat = .ok ∧ r.rlen = 8 ∧ r.rbyte = 0 ∧ r.rpos = s.stream.pos ∧
    r.rdata.toNat =
      s.stream.buf.toNat + s.stream.bufcnt.toNat * 2 ^ 24 + s.stream.susp.toNat * 2 ^ 26
        + s.stream.fsm.code.toNat * 2 ^ 27 + s.stream.opt.toNat * 2 ^ 29 + s.stream.line.toNat * 2 ^ 35 ∧
    (s = State.reset → r.rdata = 0 ∧ r.rpos = 0) ∧
    ∀ s' : State, Answers .sstat s' s'.stream r → s'.stream = s.stream

/-! ### Rules of the whole machine -/

/-- R168's table, for every command word in every state: the next state and the status, SOPEN's cleared fields, and no change
where the gate stops the command. -/
def Obligations.FsmFollowsTransitionTable : Prop :=
  ∀ (c : CmdWord) (s : State), ∃ (S' : StreamState) (r : Rsp), StepAnswers c s S' r ∧
    (S'.fsm, r.rstat) = transitionTable s.stream (decode c) ∧
    (∀ opt, decode c = .instr (.sopen opt) → S' = { State.reset.stream with fsm := .opened, opt := opt }) ∧
    (r.rstat = .notOpen ∨ r.rstat = .streamClosed ∨ r.rstat = .streamFailed → S' = s.stream)

/-- R24: `S.OPT` changes only at SOPEN, to its operand, and at reset. -/
def Obligations.OptionsChangeOnlyAtSopenAndReset : Prop :=
  ∀ s t : State, step s = .next t → t.stream.opt ≠ s.stream.opt →
    (∃ rest, s.inputs = .reset :: rest) ∨
    (∃ c rest opt, s.inputs = .command c :: rest ∧ decode c = .instr (.sopen opt) ∧ t.stream.opt = opt)

/-- R27: only SSUSP sets SUSP; SRES and SCLOSE in an open stream (the close succeeding), SOPEN and reset clear it. -/
def Obligations.SuspendedFlagChangesAsStated : Prop :=
  ∀ s t : State, step s = .next t →
    (s.stream.susp = false → t.stream.susp = true → ∃ c rest, s.inputs = .command c :: rest ∧ decode c = .instr .ssusp) ∧
    ((∃ rest, s.inputs = .reset :: rest) → t.stream.susp = false) ∧
    (∀ c rest, s.inputs = .command c :: rest →
      (decode c = .instr .sres → s.stream.fsm = .opened → t.stream.susp = false) ∧
      (decode c = .instr .sclose → s.stream.fsm = .opened → t.stream.fsm = .closed → t.stream.susp = false) ∧
      (∀ opt, decode c = .instr (.sopen opt) → t.stream.susp = false))

/-- R160: POS counts every byte that an SWR accepts in OPEN, modulo 2^32; a rejected byte and a gated SWR are not counted;
no other command but SOPEN changes it. -/
def Obligations.PositionCountsAcceptedBytes : Prop :=
  ∀ (c : CmdWord) (s : State), ∃ (S' : StreamState) (r : Rsp), StepAnswers c s S' r ∧
    (∀ b, decode c = .instr (.swr b) →
      S'.pos.toNat = if s.stream.fsm = .opened ∧ r.rstat = .ok then (s.stream.pos.toNat + 1) % 2 ^ 32 else s.stream.pos.toNat) ∧
    ((∀ b, decode c ≠ .instr (.swr b)) → (∀ opt, decode c ≠ .instr (.sopen opt)) → S'.pos = s.stream.pos) ∧
    (∀ opt, decode c = .instr (.sopen opt) → S'.pos = 0)

/-- R238: INVALID_BYTE comes from SWR and BAD_PADDING from a flushing command, and then the only change of `S` is to FAILED;
nothing else enters FAILED. -/
def Obligations.EnteringFailedChangesOnlyFsm : Prop :=
  ∀ (c : CmdWord) (s : State), ∃ (S' : StreamState) (r : Rsp), StepAnswers c s S' r ∧
    (r.rstat = .invalidByte ∨ r.rstat = .badPadding → S' = { s.stream with fsm := .failed }) ∧
    (r.rstat = .invalidByte → ∃ b, decode c = .instr (.swr b)) ∧
    (r.rstat = .badPadding → decode c = .instr .sflush ∨ decode c = .instr .ssusp ∨ decode c = .instr .sclose) ∧
    (s.stream.fsm ≠ .failed → S'.fsm = .failed → r.rstat = .invalidByte ∨ r.rstat = .badPadding)

/-- R239: FAILED is sticky: a step from FAILED leaves `S` as it is, unless it is a reset or an SOPEN. -/
def Obligations.FailedIsSticky : Prop :=
  ∀ s t : State, s.stream.fsm = .failed → step s = .next t →
    t.stream = s.stream ∨ (∃ rest, s.inputs = .reset :: rest) ∨
    (∃ c rest opt, s.inputs = .command c :: rest ∧ decode c = .instr (.sopen opt) ∧ t.stream.fsm = .opened)

/-- R231: a response that is not OK carries no bytes, and RBYTE and RPOS are 0 but for INVALID_BYTE and BAD_PADDING. -/
def Obligations.FailingResponsesCarryNoBytes : Prop :=
  ∀ (c : CmdWord) (s : State), ∃ (S' : StreamState) (r : Rsp), StepAnswers c s S' r ∧
    (r.rstat ≠ .ok → r.rlen = 0 ∧ r.rdata = 0 ∧ (r.rbyte ≠ 0 → r.rstat = .invalidByte) ∧
      (r.rpos ≠ 0 → r.rstat = .invalidByte ∨ r.rstat = .badPadding))

/-- R71, R72: RLEN is at most 8, lanes at or above RLEN are 0, RBYTE is 0 but for INVALID_BYTE, and RPOS is 0 but for
INVALID_BYTE, BAD_PADDING and SSTAT. -/
def Obligations.UnusedResponseFieldsAreZero : Prop :=
  ∀ (c : CmdWord) (s : State), ∃ (S' : StreamState) (r : Rsp), StepAnswers c s S' r ∧
    r.rlen.toNat ≤ 8 ∧ (∀ k < 8, r.rlen.toNat ≤ k → lane r.rdata k = 0) ∧
    (r.rbyte ≠ 0 → r.rstat = .invalidByte) ∧
    (r.rpos ≠ 0 → r.rstat = .invalidByte ∨ r.rstat = .badPadding ∨ decode c = .instr .sstat)

/-- R73: the length of every OK response is in the table's row of its command, and every other length is 0. -/
def Obligations.ResponseLengthsFollowTable : Prop :=
  ∀ (c : CmdWord) (s : State), ∃ (S' : StreamState) (r : Rsp), StepAnswers c s S' r ∧
    (r.rstat = .ok → r.rlen.toNat ∈ okLengths s.stream (decode c)) ∧ (r.rstat ≠ .ok → r.rlen = 0)

/-- R230, R234: the numbers of the status codes; the block never answers UNDERLENGTH. -/
def Obligations.StatusCodesAndUnderlength : Prop :=
  ([Status.ok, .invalidByte, .badPadding, .underlength, .notOpen, .streamClosed, .streamFailed, .illegal].map
    fun st => st.code.toNat) = [0, 1, 2, 3, 4, 5, 6, 7] ∧
  (∀ (c : CmdWord) (s : State), ∃ (S' : StreamState) (r : Rsp), StepAnswers c s S' r ∧ r.rstat ≠ .underlength)

/-- R236: a reserved opcode answers ILLEGAL, changes no state, and the next command runs as if it had not been issued. -/
def Obligations.ReservedOpcodeIsNotSticky : Prop :=
  ∀ (c : CmdWord) (s : State), 12 ≤ opNumber c →
    StepAnswers c s s.stream (statusOnly .illegal 0 0) ∧
    ∀ (c' : CmdWord) (rest : List Input), ∃ (t : State) (S' : StreamState) (r : Rsp),
      step { s with inputs := .command c :: .command c' :: rest } = .next t ∧
      step t = .next { stream := S', inputs := rest, rsps := s.rsps ++ [statusOnly .illegal 0 0, r] } ∧
      step { s with inputs := .command c' :: rest } = .next { stream := S', inputs := rest, rsps := s.rsps ++ [r] }

/-! ### Steps, reset, invariants -/

/-- R76: a step runs the decoded command: with the word of a well-formed command next, the step is that command's `exec` on the
state that has taken the word.  The model's choices in it: the list of inputs that the word is taken from (log entry 1, DESIGN
CHOICE), and `withFetchWord`, which stands for the host's issuing a word (R21; log entry 4, DEDUCED). -/
def Obligations.StepRunsDecodedCommand : Prop :=
  (∀ (s : State) (c : CmdWord) (rest : List Input) (i : Instr), s.inputs = .command c :: rest → decode c = .instr i →
    i.wellFormed = true → step s = exec i { s with inputs := rest }) ∧
  (∀ (s : State) (w : Nat) (i : Instr), decodeTableWord 64 w = some i → step (s.withFetchWord 64 w) = exec i s)

/-- R260: a reset input puts `S` to its reset value from any state, gives no response, and leaves the inputs after it.  That
a reset may come between any two commands is the model's input list (log entry 2); that a step with nothing issued changes
nothing is the model's choice (log entry 3). -/
def Obligations.UncommandedStepsOnlyReset : Prop :=
  (∀ (s : State) (rest : List Input), s.inputs = .reset :: rest →
    step s = .next { stream := State.reset.stream, inputs := rest, rsps := s.rsps }) ∧
  (∀ s : State, s.inputs = [] → step s = .next s)

/-- The reset values of `S` (R35), and what SOPEN has in common with them. -/
def Obligations.ResetLeavesIdleStream : Prop :=
  State.reset.stream = { fsm := .idle, opt := 0, buf := 0, bufcnt := 0, susp := false, line := 0, pos := 0 } ∧
  Fsm.code .idle = 0 ∧
  ∀ (opt : Options) (s : State), ∃ r, Answers (.sopen opt) s { State.reset.stream with fsm := .opened, opt := opt } r

/-- R10, R71, R76: no command stops and each gets exactly one response.  The model's choices in it: the lists of inputs and
responses (log entry 1), that a reset is an input between commands and gets no response (log entry 2), and that a step with
nothing issued answers the same state without a response (log entry 3). -/
def Obligations.EveryStepAnswersOnce : Prop :=
  ∀ s : State, ∃ t : State, step s = .next t ∧ t.inputs = s.inputs.tail ∧
    (∀ c rest, s.inputs = .command c :: rest → ∃ r, t.rsps = s.rsps ++ [r]) ∧
    ((∀ c rest, s.inputs ≠ .command c :: rest) → t.rsps = s.rsps)

/-- The invariant of R25, R26, R28, R138 and R168 holds after reset. -/
def Obligations.InvHoldsAtReset : Prop := State.reset.Inv

/-- Every step keeps the invariant of R25 (unused lanes are 0), R26 (what BUFCNT may be), R28 (what LINE may be), R138
(only DATA and PAD symbols are pending in the decode direction) and the modes of R23 and R168, from every state that has it. -/
def Obligations.StepKeepsInv : Prop :=
  ∀ s t : State, s.Inv → step s = .next t → t.Inv

/-! ### The host's procedures (spec/45_host_sequences.md) and the streams (R169) -/

/-- R201: the length of a whole-buffer encode, and when the precomputed length overshoots it by one. -/
def Obligations.HostEncodeLength : Prop :=
  ∀ (p : Config.HostParams) (s : State) (d : List Byte) (o : Options), optGzip o = false →
    (hostEncode p s d o).length = encodedLength d.length (optBreakLines o) ∧
    (let sym := 4 * ((d.length + 2) / 3)
     optBreakLines o = true →
      sym + sym / 76 = (hostEncode p s d o).length + if 0 < sym ∧ sym % 76 = 0 then 1 else 0)

/-- R203: a whole-buffer encode with DO_BREAK_LINES has its newlines exactly after each full line of 76 symbols, never at
the end; without DO_BREAK_LINES it has none. -/
def Obligations.HostEncodeNewlinePlacement : Prop :=
  ∀ (p : Config.HostParams) (s : State) (d : List Byte) (o : Options), optGzip o = false →
    (∀ k, (h : k < (hostEncode p s d o).length) →
      ((hostEncode p s d o)[k] = 0x0A ↔ optBreakLines o = true ∧ k % 77 = 76)) ∧
    (hostEncode p s d o).getLast? ≠ some 0x0A

/-- R213, of encoded output (log entry 18): every byte of LUTE, ENC3, an unsuspended SWR or a flush in the encode direction, of an
encode stream run on the block, and of a whole-buffer encode under any options (ENCODE clear or GZIP set too) is newline, `=` or
a symbol of the alphabet, all 7-bit.  A whole-buffer encode turns into text by the fixed 7-bit ASCII encoding, and that text
converts back to it. -/
def Obligations.EncodedOutputIsSevenBit : Prop :=
  (∀ (c : CmdWord) (s : State), ∃ (S' : StreamState) (r : Rsp), StepAnswers c s S' r ∧
    ∀ a, encodedOutputOf s.stream (decode c) = some a → ∀ k < r.rlen.toNat, IsEncodedByte a (lane r.rdata k)) ∧
  (∀ (s : State) (d : List Byte) (o : Options), optEncode o = true → ∀ b ∈ streamRun s o d, IsEncodedByte (alphaSel o) b) ∧
  (∀ (p : Config.HostParams) (s : State) (d : List Byte) (o : Options),
    (∀ b ∈ hostEncode p s d o, IsEncodedByte (alphaSel o) b) ∧
    ∃ t, hostEncodeText p s d o = some t ∧ t.map Char.toNat = (hostEncode p s d o).map BitVec.toNat ∧
      hostStringToBytes p t = hostEncode p s d o)

/-- R205, R206: the empty range decodes to nothing; a range of one to three bytes is Underlength-input, code 3, whatever its
bytes. -/
def Obligations.HostDecodeShortRanges : Prop :=
  (∀ o : Options, hostDecode [] o = .bytes []) ∧
  (∀ (e : List Byte) (o : Options), 0 < e.length → e.length < 4 →
    hostDecode e o = .underlength ∧ (hostDecode e o).status.code = 3)

/-- R208: once `=` completes a quantum, nothing after it is decoded or validated. -/
def Obligations.HostDecodeStopsAtTerminalPad : Prop :=
  ∀ (o : Options) (pre : List Byte) (s0 s1 s2 : Byte) (post : List Byte),
    (∀ b ∈ pre, byteClass (alphaSel o) b = .data) → pre.length % 4 = 0 →
    isSymbolOf (alphaSel o) s0 → isSymbolOf (alphaSel o) s1 → isSymbolOf (alphaSel o) s2 →
    hostDecode (pre ++ [s0, s1, s2, 0x3D] ++ post) o = hostDecode (pre ++ [s0, s1, s2, 0x3D]) o ∧
    ∃ out, hostDecode (pre ++ [s0, s1, s2, 0x3D]) o = .bytes out

/-- R207, R208: a quantum whose fourth symbol is not `=` does not stop the walk, an earlier `=` included: the rest is
decoded after it, and positions go on. -/
def Obligations.HostDecodeContinuesAfterQuantum : Prop :=
  ∀ (o : Options) (s0 s1 s2 s3 : Byte) (rest : List Byte),
    isSymbolOf (alphaSel o) s0 → isSymbolOf (alphaSel o) s1 → isSymbolOf (alphaSel o) s2 →
    byteClass (alphaSel o) s3 = .data → 4 ≤ rest.length →
    hostDecode ([s0, s1, s2, s3] ++ rest) o =
      match hostDecode rest o with
      | .bytes out => .bytes ((quantumBytes (alphaSel o) s0 s1 s2 s3).map (BitVec.ofNat 8) ++ out)
      | .underlength => .underlength
      | .invalidByte b pos => .invalidByte b (pos + 4)

/-- R209: one to three trailing symbols are dropped without output and without error. -/
def Obligations.HostDecodeDropsPartialTail : Prop :=
  ∀ (o : Options) (pre tail : List Byte), (∀ b ∈ pre, byteClass (alphaSel o) b = .data) → pre.length % 4 = 0 → pre ≠ [] →
    tail.length < 4 → (∀ b ∈ tail, isSymbolOf (alphaSel o) b) →
    hostDecode (pre ++ tail) o = hostDecode pre o ∧ ∃ out, hostDecode pre o = .bytes out

/-- R210: the first INVALID byte ends the walk with its value and its 0-based position. -/
def Obligations.HostDecodeReportsFirstInvalid : Prop :=
  ∀ (o : Options) (pre : List Byte) (b : Byte) (post : List Byte),
    (∀ x ∈ pre, byteClass (alphaSel o) x = .data ∨ byteClass (alphaSel o) x = .ws) →
    byteClass (alphaSel o) b = .invalid → 4 ≤ (pre ++ b :: post).length →
    hostDecode (pre ++ b :: post) o = .invalidByte b pre.length ∧
    (hostDecode (pre ++ b :: post) o).status.code = 1

/-- R207's WS case over a whole range: whitespace anywhere decodes as if it had been stripped. -/
def Obligations.HostDecodeIgnoresWhitespace : Prop :=
  ∀ (o : Options) (e : List Byte), (∀ b ∈ e, byteClass (alphaSel o) b ≠ .invalid) →
    4 ≤ (e.filter fun b => byteClass (alphaSel o) b ≠ .ws).length →
    hostDecode e o = hostDecode (e.filter fun b => byteClass (alphaSel o) b ≠ .ws) o

/-- R211, R212: the string decode converts each 7-bit ASCII character to its code, a character before or after others that are not
ASCII too; it gunzips a decoded result that begins with 0x1F 0x8B and has at least four bytes, unless DONT_GUNZIP is set; a
failed decompression gives the compressed bytes back; any other result is returned as it is.  The decompressor and the bytes for
a character outside ASCII are arguments (log entry 8, DEDUCED). -/
def Obligations.HostDecodeStringGunzips : Prop :=
  (∀ (p : Config.HostParams) (t u : List Char), (∀ c ∈ t, c.toNat < 128) →
    hostStringToBytes p t = t.map (fun c => BitVec.ofNat 8 c.toNat) ∧
    (∃ bs, hostStringToBytes p (t ++ u) = t.map (fun c => BitVec.ofNat 8 c.toNat) ++ bs) ∧
    (∃ bs, hostStringToBytes p (u ++ t) = bs ++ t.map (fun c => BitVec.ofNat 8 c.toNat))) ∧
  ∀ (p : Config.HostParams) (t : List Char) (o : Options),
    (∀ r, hostDecode (hostStringToBytes p t) o = .bytes r →
      (4 ≤ r.length ∧ r.take 2 = [0x1F, 0x8B] ∧ o.toNat / 4 % 2 = 0 →
        (∀ z, p.gunzip r = some z → hostDecodeString p t o = .bytes z) ∧
        (p.gunzip r = none → hostDecodeString p t o = .bytes r)) ∧
      (¬ (4 ≤ r.length ∧ r.take 2 = [0x1F, 0x8B] ∧ o.toNat / 4 % 2 = 0) → hostDecodeString p t o = .bytes r)) ∧
    ((∀ r, hostDecode (hostStringToBytes p t) o ≠ .bytes r) →
      hostDecodeString p t o = hostDecode (hostStringToBytes p t) o)

/-- R74, R75: what the assembler writes has every ignored bit 0, OPT counted whole (log entry 10); the spec's example line; the
expansions of the six pseudo-instructions, and a line of each with the words it assembles to. -/
def Obligations.AssemblerWritesCanonicalWords : Prop :=
  (∀ l : Asm, ∀ w ∈ l.words, canonicalWord w = true) ∧
  assembleLine "ENC3 std, 3, [0x4D 0x61 0x6E]".toList = some [0x30300000006E614D#64] ∧
  (∀ f : Options, (Asm.senc f).expand = [.sopen (BitVec.ofNat 6 (f.toNat / 2 * 2 + 1))] ∧
    (Asm.sdec f).expand = [.sopen (BitVec.ofNat 6 (f.toNat / 2 * 2))]) ∧
  (∀ bs : List Byte, (Asm.swrs bs).expand = bs.map .swr) ∧
  (∀ (a : Options) (b0 b1 : Byte), (Asm.classOf a b0).expand = [.lutd a b0] ∧
    (Asm.enc1 a b0).expand = [.enc3 a 1 b0 0 0] ∧ (Asm.enc2 a b0 b1).expand = [.enc3 a 2 b0 b1 0]) ∧
  assembleLine "SENC DO_BREAK_LINES|URL_SAFE".toList = some [0x5640000000000000#64] ∧
  assembleLine "SDEC ORDERED".toList = some [0x5800000000000000#64] ∧
  assembleLine "SWRS \"Many\"".toList = some
    [0x600000000000004D#64, 0x6000000000000061#64, 0x600000000000006E#64, 0x6000000000000079#64] ∧
  assembleLine "CLASS std, 0x0A".toList = some [0x200000000000000A#64] ∧
  assembleLine "ENC1 std, 0x4D".toList = some [0x301000000000004D#64] ∧
  assembleLine "ENC2 url, 0x4D 0x61".toList = some [0x342000000000614D#64]

/-- R216: for every byte sequence, alphabet selection and line-break setting, with GZIP clear, the whole-buffer decode of the
whole-buffer encode is the sequence. -/
def Obligations.WholeBufferRoundTrip : Prop :=
  ∀ (p : Config.HostParams) (s : State) (d : List Byte) (o : Options), optGzip o = false →
    hostDecode (hostEncode p s d (o ||| 1)) o = .bytes d

/-- R169, encode: one stream run on the block, from any state and through `step`, answers OK at every command and outputs the
whole-buffer encode, plus one newline exactly when DO_BREAK_LINES is set, the length is a positive multiple of 3 and the
symbols fill whole lines. -/
def Obligations.StreamEncodeEqualsWholeBuffer : Prop :=
  ∀ (p : Config.HostParams) (s : State) (d : List Byte) (o : Options), optEncode o = true → optGzip o = false →
    streamRun s o d = hostEncode p s d o ++ trailingNewline o d.length ∧
    (hostResponses s (streamCommands o d)).map Rsp.rstat = List.replicate (d.length + 2) .ok

/-- R169, decode: writing a whole-buffer encode byte by byte into a decode stream of the same alphabet, and closing it,
answers OK at every command and outputs the bytes that were encoded. -/
def Obligations.StreamDecodeInvertsHostEncode : Prop :=
  ∀ (p : Config.HostParams) (s : State) (d : List Byte) (o o' : Options), optEncode o = true → optGzip o = false →
    optEncode o' = false → alphaSel o' = alphaSel o →
    streamRun s o' (hostEncode p s d o) = d ∧
    (hostResponses s (streamCommands o' (hostEncode p s d o))).map Rsp.rstat
      = List.replicate ((hostEncode p s d o).length + 2) .ok
end

