-- ==== Sys2Proof/Laws/State.lean ====
section
/-! SUPPORT. The fields of every state update, each true by rfl, so that no later proof unfolds a record update. -/

namespace Sys2Proof.Machine

/-! ### `S` after each of its operations -/

section StreamOps
variable (S : StreamState) (b : Byte) (opt : Options)

@[simp] theorem StreamState.enterFailed_fsm : S.enterFailed.fsm = .failed := rfl
@[simp] theorem StreamState.enterFailed_opt : S.enterFailed.opt = S.opt := rfl
@[simp] theorem StreamState.enterFailed_buf : S.enterFailed.buf = S.buf := rfl
@[simp] theorem StreamState.enterFailed_bufcnt : S.enterFailed.bufcnt = S.bufcnt := rfl
@[simp] theorem StreamState.enterFailed_susp : S.enterFailed.susp = S.susp := rfl
@[simp] theorem StreamState.enterFailed_line : S.enterFailed.line = S.line := rfl
@[simp] theorem StreamState.enterFailed_pos : S.enterFailed.pos = S.pos := rfl

@[simp] theorem StreamState.openStream_fsm : (StreamState.openStream opt).fsm = .opened := rfl
@[simp] theorem StreamState.openStream_opt : (StreamState.openStream opt).opt = opt := rfl
@[simp] theorem StreamState.openStream_buf : (StreamState.openStream opt).buf = 0 := rfl
@[simp] theorem StreamState.openStream_bufcnt : (StreamState.openStream opt).bufcnt = 0 := rfl
@[simp] theorem StreamState.openStream_susp : (StreamState.openStream opt).susp = false := rfl
@[simp] theorem StreamState.openStream_line : (StreamState.openStream opt).line = 0 := rfl
@[simp] theorem StreamState.openStream_pos : (StreamState.openStream opt).pos = 0 := rfl

@[simp] theorem StreamState.clearBuf_fsm : S.clearBuf.fsm = S.fsm := rfl
@[simp] theorem StreamState.clearBuf_opt : S.clearBuf.opt = S.opt := rfl
@[simp] theorem StreamState.clearBuf_buf : S.clearBuf.buf = 0 := rfl
@[simp] theorem StreamState.clearBuf_bufcnt : S.clearBuf.bufcnt = 0 := rfl
@[simp] theorem StreamState.clearBuf_susp : S.clearBuf.susp = S.susp := rfl
@[simp] theorem StreamState.clearBuf_line : S.clearBuf.line = S.line := rfl
@[simp] theorem StreamState.clearBuf_pos : S.clearBuf.pos = S.pos := rfl

@[simp] theorem StreamState.countByte_fsm : S.countByte.fsm = S.fsm := rfl
@[simp] theorem StreamState.countByte_opt : S.countByte.opt = S.opt := rfl
@[simp] theorem StreamState.countByte_buf : S.countByte.buf = S.buf := rfl
@[simp] theorem StreamState.countByte_bufcnt : S.countByte.bufcnt = S.bufcnt := rfl
@[simp] theorem StreamState.countByte_susp : S.countByte.susp = S.susp := rfl
@[simp] theorem StreamState.countByte_line : S.countByte.line = S.line := rfl
@[simp] theorem StreamState.countByte_pos : S.countByte.pos = S.pos + 1 := rfl

@[simp] theorem StreamState.pushByte_fsm : (S.pushByte b).fsm = S.fsm := rfl
@[simp] theorem StreamState.pushByte_opt : (S.pushByte b).opt = S.opt := rfl
@[simp] theorem StreamState.pushByte_buf : (S.pushByte b).buf = setLane S.buf S.bufcnt b := rfl
@[simp] theorem StreamState.pushByte_bufcnt : (S.pushByte b).bufcnt = S.bufcnt + 1 := rfl
@[simp] theorem StreamState.pushByte_susp : (S.pushByte b).susp = S.susp := rfl
@[simp] theorem StreamState.pushByte_line : (S.pushByte b).line = S.line := rfl
@[simp] theorem StreamState.pushByte_pos : (S.pushByte b).pos = S.pos := rfl

@[simp] theorem StreamState.addLine_fsm : S.addLine.fsm = S.fsm := rfl
@[simp] theorem StreamState.addLine_opt : S.addLine.opt = S.opt := rfl
@[simp] theorem StreamState.addLine_buf : S.addLine.buf = S.buf := rfl
@[simp] theorem StreamState.addLine_bufcnt : S.addLine.bufcnt = S.bufcnt := rfl
@[simp] theorem StreamState.addLine_susp : S.addLine.susp = S.susp := rfl
@[simp] theorem StreamState.addLine_line : S.addLine.line = S.line + 4 := rfl
@[simp] theorem StreamState.addLine_pos : S.addLine.pos = S.pos := rfl

@[simp] theorem resetStream_eq : resetStream S = StreamState.reset := rfl

end StreamOps

/-! ### Direction and alphabet depend on `S.OPT` alone (R24) -/

theorem StreamState.encodes_eq (S : StreamState) : S.encodes = optEncode S.opt := rfl
theorem StreamState.alphabet_eq (S : StreamState) : S.alphabet = alphaSel S.opt := rfl

/-! ### The fields of a response -/

section Responses
variable (xs : List Byte) (st : Status) (b : Byte) (p : BitVec 32)

@[simp] theorem emit_rstat : (emit xs).rstat = .ok := rfl
@[simp] theorem emit_rlen : (emit xs).rlen = BitVec.ofNat 4 xs.length := rfl
@[simp] theorem emit_rdata : (emit xs).rdata = packLanes xs := rfl
@[simp] theorem emit_rbyte : (emit xs).rbyte = 0 := rfl
@[simp] theorem emit_rpos : (emit xs).rpos = 0 := rfl

@[simp] theorem raise_rstat : (raise st b p).rstat = st := rfl
@[simp] theorem raise_rlen : (raise st b p).rlen = 0 := rfl
@[simp] theorem raise_rdata : (raise st b p).rdata = 0 := rfl
@[simp] theorem raise_rbyte : (raise st b p).rbyte = b := rfl
@[simp] theorem raise_rpos : (raise st b p).rpos = p := rfl

end Responses

/-! ### Placing a command where the next step takes it -/

section Fetch
variable (s : State) (nbits w : Nat)

@[simp] theorem State.withFetchWord_stream : (s.withFetchWord nbits w).stream = s.stream := rfl
@[simp] theorem State.withFetchWord_rsps : (s.withFetchWord nbits w).rsps = s.rsps := rfl
@[simp] theorem State.withFetchWord_inputs :
    (s.withFetchWord nbits w).inputs = .command (BitVec.ofNat 64 (w % 2 ^ nbits)) :: s.inputs := rfl

end Fetch

end Sys2Proof.Machine
end

