-- ==== Sys2Proof/Laws/Ops.lean ====
section
/-! SUPPORT. One lemma per shared operation that says everything it can do; the meanings' proofs cite these instead of
unfolding. -/

namespace Sys2Proof.Machine

/-! ### The gate (R151) -/

theorem gate_eq_none_iff (S : StreamState) : gate S = none ↔ S.fsm = .opened := by
  unfold gate; cases S.fsm <;> simp

theorem gate_of_opened {S : StreamState} (h : S.fsm = .opened) : gate S = none :=
  (gate_eq_none_iff S).2 h

/-- What a gated command does: its body in OPEN, otherwise a status and no change of `S`. -/
theorem gated_cases (s : State) (body : StreamState → StreamState × Rsp) :
    (s.stream.fsm = .opened ∧ s.gated body = s.respond (body s.stream).1 (body s.stream).2) ∨
    (s.stream.fsm = .idle ∧ s.gated body = s.respond s.stream (raise .notOpen 0 0)) ∨
    (s.stream.fsm = .closed ∧ s.gated body = s.respond s.stream (raise .streamClosed 0 0)) ∨
    (s.stream.fsm = .failed ∧ s.gated body = s.respond s.stream (raise .streamFailed 0 0)) := by
  unfold State.gated gate
  cases s.stream.fsm <;> simp

/-- A gated command in OPEN runs its body. -/
theorem gated_of_opened {s : State} (h : s.stream.fsm = .opened) (body : StreamState → StreamState × Rsp) :
    s.gated body = s.respond (body s.stream).1 (body s.stream).2 := by
  simp [State.gated, gate_of_opened h]

/-! ### The flush (R161) -/

/-- What a flush does: nothing with an empty buffer, the padded quantum when encoding, BAD_PADDING when decoding. -/
theorem flush_cases (S : StreamState) :
    (S.bufcnt = 0 ∧ flush S = (S, emit [])) ∨
    (S.bufcnt ≠ 0 ∧ S.encodes = true ∧ flush S = (S.clearBuf, emit (S.encodePending S.bufcnt))) ∨
    (S.bufcnt ≠ 0 ∧ S.encodes = false ∧ flush S = (S.enterFailed, raise .badPadding 0 S.pos)) := by
  unfold flush
  by_cases h : S.bufcnt = 0
  · exact .inl ⟨h, if_pos h⟩
  · rw [if_neg h]
    cases he : S.encodes
    · exact .inr (.inr ⟨h, rfl, by simp⟩)
    · exact .inr (.inl ⟨h, rfl, by simp⟩)

theorem thenIfOk_of_ok {S : StreamState} {r : Rsp} (h : r.rstat = .ok) (f : StreamState → StreamState) :
    thenIfOk (S, r) f = (f S, r) := by
  simp [thenIfOk, h]

theorem thenIfOk_of_not_ok {S : StreamState} {r : Rsp} (h : r.rstat ≠ .ok) (f : StreamState → StreamState) :
    thenIfOk (S, r) f = (S, r) := by
  simp [thenIfOk, h]

/-! ### The encode core emits nothing or four symbols (R130, R132) -/

theorem enc3to4_length (a : Alphabet) (b0 b1 b2 : Byte) (n : BitVec 2) :
    (enc3to4 a b0 b1 b2 n).length = if n = 0 then 0 else 4 := by
  have h : ∀ m : BitVec 2, m = 0 ∨ m = 1 ∨ m = 2 ∨ m = 3 := by decide
  rcases h n with rfl | rfl | rfl | rfl <;> rfl

/-! ### The decode core emits one to three bytes (R135 to R137) -/

theorem dec4to3_length (a : Alphabet) (s0 s1 s2 s3 : Byte) :
    (dec4to3 a s0 s1 s2 s3).length
      = if s2 = Config.padChar then 1 else if s3 = Config.padChar then 2 else 3 := by
  unfold dec4to3
  split
  · rfl
  · split <;> rfl

/-! ### The pending buffer's lanes (R25) -/

theorem lane_join3 (b2 b1 b0 : Byte) :
    lane (join3 b2 b1 b0) 0 = b0 ∧ lane (join3 b2 b1 b0) 1 = b1 ∧ lane (join3 b2 b1 b0) 2 = b2 := by
  refine ⟨?_, ?_, ?_⟩ <;> (simp only [lane, join3]; ext i hi; interval_cases i <;> simp)

/-- A write to a lane that exists changes that lane only. -/
theorem lane_setLane (buf : BitVec 24) (n : BitVec 2) (b : Byte) (h : n.toNat < 3) (k : Nat) (hk : k < 3) :
    lane (setLane buf n b) k = if k = n.toNat then b else lane buf k := by
  have hn : ∀ m : BitVec 2, m = 0 ∨ m = 1 ∨ m = 2 ∨ m = 3 := by decide
  rcases hn n with rfl | rfl | rfl | rfl <;> interval_cases k <;> simp [setLane, lane_join3] at h ⊢

/-! ### Lanes (R44, R72) -/

@[simp] theorem packLanes_nil : packLanes [] = 0 := rfl

theorem packLanes_cons (b : Byte) (bs : List Byte) :
    packLanes (b :: bs) = (packLanes bs <<< 8) ||| b.setWidth 64 := rfl

/-- Lane 0 of the packed bytes is the first byte. -/
theorem lane_zero_packLanes (b : Byte) (bs : List Byte) : lane (packLanes (b :: bs)) 0 = b := by
  simp only [packLanes_cons, lane]
  ext i hi
  simp [hi]
  omega

/-- Lane `k + 1` of the packed bytes is lane `k` of the packed rest, inside the 64 bits. -/
theorem lane_succ_packLanes (b : Byte) (bs : List Byte) (k : Nat) (hk : k < 7) :
    lane (packLanes (b :: bs)) (k + 1) = lane (packLanes bs) k := by
  simp only [packLanes_cons, lane]
  ext i hi
  have h1 : 8 * (k + 1) + i < 64 := by omega
  have h2 : ¬ 8 * (k + 1) + i < 8 := by omega
  have h3 : 8 * (k + 1) + i - 8 = 8 * k + i := by omega
  have h4 : b.getLsbD (8 * (k + 1) + i) = false := BitVec.getLsbD_of_ge _ _ (by omega)
  simp [h1, h2, h3, h4, show 8 * k + i < 64 by omega]

/-- Inside the eight lanes, lane `k` of the packed bytes is byte `k`, and 0 past the last byte (R72). -/
theorem lane_packLanes (bs : List Byte) (k : Nat) (hk : k < 8) : lane (packLanes bs) k = bs.getD k 0 := by
  induction bs generalizing k with
  | nil => simp [lane]
  | cons b bs ih =>
    cases k with
    | zero => simpa using lane_zero_packLanes b bs
    | succ k => rw [lane_succ_packLanes b bs k (by omega), ih k (by omega)]; simp

/-- The result bytes of an emitted response are the emitted bytes (R72). -/
theorem emit_bytes (bs : List Byte) (h : bs.length ≤ 8) : (emit bs).bytes = bs := by
  have hlen : (BitVec.ofNat 4 bs.length).toNat = bs.length := by
    simp only [BitVec.toNat_ofNat]; omega
  apply List.ext_getElem
  · simp [Rsp.bytes, hlen]
  · intro k h1 h2
    simp only [Rsp.bytes, emit_rlen, hlen, List.getElem_map, List.getElem_range, emit_rdata]
    rw [lane_packLanes bs k (by omega)]
    simp [h2]

end Sys2Proof.Machine
end

