-- ==== Sys2Proof/Laws/Meanings.lean ====
section
/-! SUPPORT. What a command does, said once: "Every command's rule is written as `Exec(cmd) : state -> state x response`"
(spec/00_scope.md R10).  `answer` is that function, and every `exec`, `step` and host run is it. -/

namespace Sys2Proof.Machine

/-- A gated body as a function of `S` (R151). -/
def gatedAnswer (body : StreamState → StreamState × Rsp) (S : StreamState) : StreamState × Rsp :=
  match gate S with
  | some st => (S, raise st 0 0)
  | none => body S

/-- `Exec(cmd) : S -> S x response` of each command (R10). -/
def answer : Instr → StreamState → StreamState × Rsp
  | .nop, S => (S, emit [])
  | .lute opt index, S => (S, emit [encRom (alphaSel opt) index])
  | .lutd opt b, S => (S, emit [decRom (alphaSel opt) b])
  | .enc3 opt cnt b0 b1 b2, S => (S, emit (enc3to4 (alphaSel opt) b0 b1 b2 cnt))
  | .dec4 opt s0 s1 s2 s3, S => (S, emit (dec4to3 (alphaSel opt) s0 s1 s2 s3))
  | .sopen opt, _ => (StreamState.openStream opt, emit [])
  | .swr b, S => gatedAnswer (swrBody b) S
  | .sflush, S => gatedAnswer flush S
  | .ssusp, S => gatedAnswer ssuspBody S
  | .sres, S => gatedAnswer sresBody S
  | .sclose, S => gatedAnswer scloseBody S
  | .sstat, S => (S, { rstat := .ok, rlen := 8, rdata := statWord S, rbyte := 0, rpos := S.pos })

/-- The same of any command word, a reserved opcode included (R68, R76). -/
def answerWord (c : CmdWord) (S : StreamState) : StreamState × Rsp :=
  match decode c with
  | .instr i => answer i S
  | .illegal _ => (S, raise .illegal 0 0)

theorem gated_eq_respond (s : State) (body : StreamState → StreamState × Rsp) :
    s.gated body = s.respond (gatedAnswer body s.stream).1 (gatedAnswer body s.stream).2 := by
  unfold State.gated gatedAnswer
  cases gate s.stream <;> rfl

theorem gatedAnswer_of_opened {S : StreamState} (h : S.fsm = .opened) (body : StreamState → StreamState × Rsp) :
    gatedAnswer body S = body S := by
  simp [gatedAnswer, gate_of_opened h]

/-- Every command answers `answer`, and nothing of the machine but `S` and the responses changes. -/
theorem exec_eq_respond (i : Instr) (s : State) :
    exec i s = s.respond (answer i s.stream).1 (answer i s.stream).2 := by
  cases i
  case swr => exact gated_eq_respond s _
  case sflush => exact gated_eq_respond s _
  case ssusp => exact gated_eq_respond s _
  case sres => exact gated_eq_respond s _
  case sclose => exact gated_eq_respond s _
  all_goals rfl

theorem runCommand_eq_respond (c : CmdWord) (s : State) :
    runCommand c s = s.respond (answerWord c s.stream).1 (answerWord c s.stream).2 := by
  unfold runCommand answerWord
  cases decode c with
  | instr i => exact exec_eq_respond i s
  | illegal op => rfl

/-- One step on a command word, whatever the word. -/
theorem step_command {s : State} {c : CmdWord} {rest : List Input} (h : s.inputs = .command c :: rest) :
    step s = .next { stream := (answerWord c s.stream).1, inputs := rest,
                     rsps := s.rsps ++ [(answerWord c s.stream).2] } := by
  unfold step
  rw [h]
  exact runCommand_eq_respond c { s with inputs := rest }

/-- One step on a reset. -/
theorem step_reset {s : State} {rest : List Input} (h : s.inputs = .reset :: rest) :
    step s = .next { stream := StreamState.reset, inputs := rest, rsps := s.rsps } := by
  unfold step; rw [h]; rfl

/-- One step with nothing issued. -/
theorem step_idle {s : State} (h : s.inputs = []) : step s = .next s := by
  unfold step; rw [h]

/-- What a step can do: the three cases, each with the whole next state. -/
theorem step_cases {s t : State} (h : step s = .next t) :
    (s.inputs = [] ∧ t = s) ∨
    (∃ rest, s.inputs = .reset :: rest ∧ t = { stream := StreamState.reset, inputs := rest, rsps := s.rsps }) ∨
    (∃ c rest, s.inputs = .command c :: rest ∧
      t = { stream := (answerWord c s.stream).1, inputs := rest, rsps := s.rsps ++ [(answerWord c s.stream).2] }) := by
  cases hin : s.inputs with
  | nil =>
    rw [step_idle hin] at h
    exact .inl ⟨rfl, (Host.Outcome.next.inj h).symm⟩
  | cons x rest =>
    cases x with
    | reset =>
      rw [step_reset hin] at h
      exact .inr (.inl ⟨rest, rfl, (Host.Outcome.next.inj h).symm⟩)
    | command c =>
      rw [step_command hin] at h
      exact .inr (.inr ⟨c, rest, rfl, (Host.Outcome.next.inj h).symm⟩)

/-! ### A run of the block over a list of command words -/

/-- `S` after the words `cs`. -/
def streamAfter (cs : List CmdWord) (S : StreamState) : StreamState :=
  cs.foldl (fun S' c => (answerWord c S').1) S

/-- The responses to the words `cs`. -/
def answers : List CmdWord → StreamState → List Rsp
  | [], _ => []
  | c :: cs, S => (answerWord c S).2 :: answers cs (answerWord c S).1

/-- The host's run of any words: it never stops, and each word gets its answer. -/
theorem hostIssue_eq (cs : List CmdWord) (s : State) :
    hostIssue s cs = .next { stream := streamAfter cs s.stream, inputs := s.inputs,
                             rsps := s.rsps ++ answers cs s.stream } := by
  induction cs generalizing s with
  | nil => simp [hostIssue, Host.Core.run, streamAfter, answers]; rfl
  | cons c cs ih =>
    have hstep := step_command (s := { s with inputs := (c :: cs).map Input.command ++ s.inputs })
      (c := c) (rest := cs.map Input.command ++ s.inputs) rfl
    have := ih { stream := (answerWord c s.stream).1, inputs := s.inputs, rsps := s.rsps ++ [(answerWord c s.stream).2] }
    simp only [hostIssue, List.length_cons, Host.Core.run, core] at *
    rw [hstep]
    simpa [streamAfter, answers] using this

theorem hostResponses_eq (cs : List CmdWord) (s : State) : hostResponses s cs = answers cs s.stream := by
  simp [hostResponses, hostIssue_eq]

theorem answers_append (cs ds : List CmdWord) (S : StreamState) :
    answers (cs ++ ds) S = answers cs S ++ answers ds (streamAfter cs S) := by
  induction cs generalizing S with
  | nil => rfl
  | cons c cs ih => simp [answers, streamAfter, ih]

end Sys2Proof.Machine
end

