-- ==== Sys2Proof/Laws/Cases.lean ====
section
/-! SUPPORT. Everything a command can do, as one list of cases with their guards and their whole effect: `CommandCase` holds
of every command's answer (`answerWord_case`), so a rule about all commands is a case analysis over it and no meaning is
unfolded again. -/

namespace Sys2Proof.Machine

/-- The non-stream commands and their one answer, which no stream state enters (R111, R112, R133, R139, R140). -/
inductive StatelessCase : Instr → Rsp → Prop where
  | nop : StatelessCase .nop (emit [])
  | lute (opt : Options) (index : BitVec 6) : StatelessCase (.lute opt index) (emit [encRom (alphaSel opt) index])
  | lutd (opt : Options) (b : Byte) : StatelessCase (.lutd opt b) (emit [decRom (alphaSel opt) b])
  | enc3 (opt : Options) (cnt : BitVec 2) (b0 b1 b2 : Byte) :
      StatelessCase (.enc3 opt cnt b0 b1 b2) (emit (enc3to4 (alphaSel opt) b0 b1 b2 cnt))
  | dec4 (opt : Options) (s0 s1 s2 s3 : Byte) :
      StatelessCase (.dec4 opt s0 s1 s2 s3) (emit (dec4to3 (alphaSel opt) s0 s1 s2 s3))

/-- The five gated commands (R151). -/
inductive GatedInstr : Instr → Prop where
  | swr (b : Byte) : GatedInstr (.swr b)
  | sflush : GatedInstr .sflush
  | ssusp : GatedInstr .ssusp
  | sres : GatedInstr .sres
  | sclose : GatedInstr .sclose

/-- The gate's status of each state that is not OPEN (R151). -/
inductive GateCase : Fsm → Status → Prop where
  | idle : GateCase .idle .notOpen
  | closed : GateCase .closed .streamClosed
  | failed : GateCase .failed .streamFailed

/-- The bytes of a quantum that an SWR of `b` completes in the encode direction (R155). -/
def completedQuantum (S : StreamState) (b : Byte) : List Byte :=
  enc3to4 S.alphabet (lane (setLane S.buf S.bufcnt b) 0) (lane (setLane S.buf S.bufcnt b) 1)
    (lane (setLane S.buf S.bufcnt b) 2) 3

/-- What SWR does in OPEN (R153 to R159). -/
inductive SwrCase (b : Byte) (S : StreamState) : StreamState → Rsp → Prop where
  | suspended : S.susp = true → SwrCase b S S.countByte (emit [b])
  | buffered : S.susp = false → S.encodes = true → (S.bufcnt + 1).toNat < 3 →
      SwrCase b S (S.pushByte b).countByte (emit [])
  | encodedWithNewline : S.susp = false → S.encodes = true → ¬ (S.bufcnt + 1).toNat < 3 →
      optBreakLines S.opt = true → 76 ≤ (S.line + 4).toNat →
      SwrCase b S { S.countByte.clearBuf with line := 0 } (emit (completedQuantum S b ++ [Config.newline]))
  | encoded : S.susp = false → S.encodes = true → ¬ (S.bufcnt + 1).toNat < 3 →
      ¬ (optBreakLines S.opt = true ∧ 76 ≤ (S.line + 4).toNat) →
      SwrCase b S S.countByte.clearBuf.addLine (emit (completedQuantum S b))
  | symbolBuffered : S.susp = false → S.encodes = false → S.isSymbol b → S.bufcnt.toNat < 3 →
      SwrCase b S (S.countByte.pushByte b) (emit [])
  | decoded : S.susp = false → S.encodes = false → S.isSymbol b → ¬ S.bufcnt.toNat < 3 →
      SwrCase b S S.countByte.clearBuf (emit (dec4to3 S.alphabet (lane S.buf 0) (lane S.buf 1) (lane S.buf 2) b))
  | space : S.susp = false → S.encodes = false → byteClass S.alphabet b = .ws → SwrCase b S S.countByte (emit [])
  | invalid : S.susp = false → S.encodes = false → byteClass S.alphabet b = .invalid →
      SwrCase b S S.enterFailed (raise .invalidByte b S.pos)

/-- What a flush does in OPEN (R161). -/
inductive FlushCase (S : StreamState) : StreamState → Rsp → Prop where
  | nothing : S.bufcnt = 0 → FlushCase S S (emit [])
  | padded : S.bufcnt ≠ 0 → S.encodes = true → FlushCase S S.clearBuf (emit (S.encodePending S.bufcnt))

/-- Every command, with the state it meets, the state it leaves and its response. -/
inductive CommandCase : Command → StreamState → StreamState → Rsp → Prop where
  | illegal (op : BitVec 4) (S : StreamState) : CommandCase (.illegal op) S S (raise .illegal 0 0)
  | stateless {i : Instr} {r : Rsp} (S : StreamState) : StatelessCase i r → CommandCase (.instr i) S S r
  | sopen (opt : Options) (S : StreamState) :
      CommandCase (.instr (.sopen opt)) S (StreamState.openStream opt) (emit [])
  | sstat (S : StreamState) : CommandCase (.instr .sstat) S S
      { rstat := .ok, rlen := 8, rdata := statWord S, rbyte := 0, rpos := S.pos }
  | gated {i : Instr} {S : StreamState} {st : Status} : GatedInstr i → GateCase S.fsm st →
      CommandCase (.instr i) S S (raise st 0 0)
  | swr {b : Byte} {S S' : StreamState} {r : Rsp} : S.fsm = .opened → SwrCase b S S' r →
      CommandCase (.instr (.swr b)) S S' r
  | sres {S : StreamState} : S.fsm = .opened → CommandCase (.instr .sres) S { S with susp := false } (emit [])
  | sflush {S S' : StreamState} {r : Rsp} : S.fsm = .opened → FlushCase S S' r → CommandCase (.instr .sflush) S S' r
  | ssusp {S S' : StreamState} {r : Rsp} : S.fsm = .opened → FlushCase S S' r →
      CommandCase (.instr .ssusp) S { S' with susp := true } r
  | sclose {S S' : StreamState} {r : Rsp} : S.fsm = .opened → FlushCase S S' r →
      CommandCase (.instr .sclose) S { S' with fsm := .closed, susp := false } r
  | badPadding {i : Instr} {S : StreamState} : i = .sflush ∨ i = .ssusp ∨ i = .sclose → S.fsm = .opened →
      S.bufcnt ≠ 0 → S.encodes = false → CommandCase (.instr i) S S.enterFailed (raise .badPadding 0 S.pos)

/-- The line-full test after a completed quantum (R155). -/
theorem lineFull_after_quantum (S : StreamState) (b : Byte) :
    (S.pushByte b).countByte.clearBuf.addLine.lineFull = true
      ↔ optBreakLines S.opt = true ∧ 76 ≤ (S.line + 4).toNat := by
  simp [StreamState.lineFull, Config.maxLine]

theorem swrEncode_case (b : Byte) (S : StreamState) (hs : S.susp = false) (he : S.encodes = true) :
    SwrCase b S (swrEncode b S).1 (swrEncode b S).2 := by
  unfold swrEncode
  by_cases h3 : (S.pushByte b).countByte.bufcnt.toNat < 3
  · rw [if_pos h3]; exact .buffered hs he h3
  · rw [if_neg h3]
    by_cases hf : optBreakLines S.opt = true ∧ 76 ≤ (S.line + 4).toNat
    · rw [if_pos ((lineFull_after_quantum S b).2 hf)]; exact .encodedWithNewline hs he h3 hf.1 hf.2
    · rw [if_neg (fun h => hf ((lineFull_after_quantum S b).1 h))]; exact .encoded hs he h3 hf

theorem swrDecodeSymbol_case (b : Byte) (S : StreamState) (hs : S.susp = false) (he : S.encodes = false)
    (hb : S.isSymbol b) : SwrCase b S (swrDecodeSymbol b S).1 (swrDecodeSymbol b S).2 := by
  unfold swrDecodeSymbol
  by_cases h3 : S.bufcnt.toNat < 3
  · rw [if_pos h3]; exact .symbolBuffered hs he hb h3
  · rw [if_neg h3]; exact .decoded hs he hb h3

theorem swrDecode_case (b : Byte) (S : StreamState) (hs : S.susp = false) (he : S.encodes = false) :
    SwrCase b S (swrDecode b S).1 (swrDecode b S).2 := by
  unfold swrDecode
  cases hc : byteClass S.alphabet b with
  | data => exact swrDecodeSymbol_case b S hs he (.inl hc)
  | pad => exact swrDecodeSymbol_case b S hs he (.inr hc)
  | ws => exact .space hs he hc
  | invalid => exact .invalid hs he hc

theorem swrBody_case (b : Byte) (S : StreamState) : SwrCase b S (swrBody b S).1 (swrBody b S).2 := by
  unfold swrBody
  cases hs : S.susp with
  | true => exact .suspended hs
  | false =>
    cases he : S.encodes with
    | true => exact swrEncode_case b S hs he
    | false => exact swrDecode_case b S hs he

/-- A gated command outside OPEN. -/
theorem gatedAnswer_of_gateCase {S : StreamState} {st : Status} (h : GateCase S.fsm st)
    (body : StreamState → StreamState × Rsp) : gatedAnswer body S = (S, raise st 0 0) := by
  unfold gatedAnswer gate
  cases hf : S.fsm <;> rw [hf] at h <;> cases h <;> rfl

/-- A stream is open, or the gate stops it. -/
theorem opened_or_gateCase (S : StreamState) : S.fsm = .opened ∨ ∃ st, GateCase S.fsm st := by
  cases S.fsm
  · exact .inr ⟨_, .idle⟩
  · exact .inl rfl
  · exact .inr ⟨_, .closed⟩
  · exact .inr ⟨_, .failed⟩

/-- A gated command's answer: its body in OPEN, else the gate. -/
theorem gatedAnswer_case {i : Instr} (hi : GatedInstr i) (body : StreamState → StreamState × Rsp) (S : StreamState)
    (hbody : S.fsm = .opened → CommandCase (.instr i) S (body S).1 (body S).2) :
    CommandCase (.instr i) S (gatedAnswer body S).1 (gatedAnswer body S).2 := by
  rcases opened_or_gateCase S with h | ⟨st, h⟩
  · rw [gatedAnswer_of_opened h]; exact hbody h
  · rw [gatedAnswer_of_gateCase h]; exact .gated hi h

/-- Every command does one of the listed things. -/
theorem answer_case (i : Instr) (S : StreamState) : CommandCase (.instr i) S (answer i S).1 (answer i S).2 := by
  cases i with
  | nop => exact .stateless S .nop
  | lute opt index => exact .stateless S (.lute opt index)
  | lutd opt b => exact .stateless S (.lutd opt b)
  | enc3 opt cnt b0 b1 b2 => exact .stateless S (.enc3 opt cnt b0 b1 b2)
  | dec4 opt s0 s1 s2 s3 => exact .stateless S (.dec4 opt s0 s1 s2 s3)
  | sopen opt => exact .sopen opt S
  | sstat => exact .sstat S
  | swr b => exact gatedAnswer_case (.swr b) _ S fun h => .swr h (swrBody_case b S)
  | sres => exact gatedAnswer_case .sres _ S fun h => .sres h
  | sflush =>
    refine gatedAnswer_case .sflush _ S fun h => ?_
    rcases flush_cases S with ⟨h0, e⟩ | ⟨h0, he, e⟩ | ⟨h0, he, e⟩ <;> rw [e]
    · exact .sflush h (.nothing h0)
    · exact .sflush h (.padded h0 he)
    · exact .badPadding (.inl rfl) h h0 he
  | ssusp =>
    refine gatedAnswer_case .ssusp _ S fun h => ?_
    unfold ssuspBody
    rcases flush_cases S with ⟨h0, e⟩ | ⟨h0, he, e⟩ | ⟨h0, he, e⟩ <;> rw [e]
    · exact .ssusp h (.nothing h0)
    · exact .ssusp h (.padded h0 he)
    · exact .badPadding (.inr (.inl rfl)) h h0 he
  | sclose =>
    refine gatedAnswer_case .sclose _ S fun h => ?_
    unfold scloseBody
    rcases flush_cases S with ⟨h0, e⟩ | ⟨h0, he, e⟩ | ⟨h0, he, e⟩ <;> rw [e]
    · exact .sclose h (.nothing h0)
    · exact .sclose h (.padded h0 he)
    · exact .badPadding (.inr (.inr rfl)) h h0 he

/-- Every command word does one of the listed things. -/
theorem answerWord_case (c : CmdWord) (S : StreamState) :
    CommandCase (decode c) S (answerWord c S).1 (answerWord c S).2 := by
  unfold answerWord
  cases decode c with
  | instr i => exact answer_case i S
  | illegal op => exact .illegal op S

/-- `exec`'s next state, read off `answer`. -/
theorem exec_eq_next_iff (i : Instr) (s : State) (S' : StreamState) (r : Rsp) :
    exec i s = .next { stream := S', inputs := s.inputs, rsps := s.rsps ++ [r] } ↔ answer i s.stream = (S', r) := by
  rw [exec_eq_respond]
  simp only [State.respond, Host.Outcome.next.injEq, State.mk.injEq, List.append_cancel_left_eq, List.cons.injEq,
    and_true, true_and]
  exact ⟨fun ⟨h1, h2⟩ => Prod.ext h1 h2, fun h => by rw [h]; exact ⟨rfl, rfl⟩⟩

end Sys2Proof.Machine
end

