-- ==== Sys2Proof/Laws/Decode.lean ====
section
/-! SUPPORT. The fields of an encoded word and the lanes of its DATA (spec/30_encoding.md R60, R44). -/

namespace Sys2Proof

section Fields
variable (op : BitVec 4) (opt : Options) (cnt : BitVec 2) (data : BitVec 32)

@[simp] theorem fieldOp_commandWord : fieldOp (commandWord op opt cnt data) = op := by
  simp only [fieldOp, commandWord]; ext i hi; interval_cases i <;> simp

@[simp] theorem fieldOpt_commandWord : fieldOpt (commandWord op opt cnt data) = opt := by
  simp only [fieldOpt, commandWord]; ext i hi; interval_cases i <;> simp

@[simp] theorem fieldCnt_commandWord : fieldCnt (commandWord op opt cnt data) = cnt := by
  simp only [fieldCnt, commandWord]; ext i hi; interval_cases i <;> simp

@[simp] theorem fieldRsv_commandWord : fieldRsv (commandWord op opt cnt data) = 0 := by
  simp only [fieldRsv, commandWord]; ext i hi; interval_cases i <;> simp

@[simp] theorem fieldData_commandWord : fieldData (commandWord op opt cnt data) = data := by
  simp only [fieldData, commandWord]; ext i hi; interval_cases i <;> simp

end Fields

/-- DATA's lanes are the bytes it was built from (R44). -/
theorem lane_dataWord (l0 l1 l2 l3 : Byte) :
    lane (dataWord l0 l1 l2 l3) 0 = l0 ∧ lane (dataWord l0 l1 l2 l3) 1 = l1 ∧ lane (dataWord l0 l1 l2 l3) 2 = l2 ∧
    lane (dataWord l0 l1 l2 l3) 3 = l3 := by
  refine ⟨?_, ?_, ?_, ?_⟩ <;> (simp only [lane, dataWord]; ext i hi; interval_cases i <;> simp)

/-- `Instr.wellFormed` refuses no term: the operand types have the fields' widths (R60). -/
theorem Laws.wellFormed_eq_true (i : Instr) : i.wellFormed = true := by
  cases i <;> simp [Instr.wellFormed] <;> omega

end Sys2Proof
end

