-- ==== Sys2Proof/Laws/PerInstr.lean ====
section
/-! SUPPORT. One statement about every command as syntax, a lemma per constructor: the word that `encode` writes carries the
command's opcode in OP and 0 in RSV (spec/30_encoding.md R60, R67, R74). -/

namespace Sys2Proof.Laws.Opcode

/-- The encoded word's OP is the opcode of R67 and its RSV is 0. -/
def Statement (i : Instr) : Prop := fieldOp (encode i) = i.opcode ∧ fieldRsv (encode i) = 0

theorem nop : Statement .nop := by simp [Statement, encode]
theorem lute (opt : Options) (index : BitVec 6) : Statement (.lute opt index) := by simp [Statement, encode]
theorem lutd (opt : Options) (b : Byte) : Statement (.lutd opt b) := by simp [Statement, encode]
theorem enc3 (opt : Options) (cnt : BitVec 2) (b0 b1 b2 : Byte) : Statement (.enc3 opt cnt b0 b1 b2) := by
  simp [Statement, encode]
theorem dec4 (opt : Options) (s0 s1 s2 s3 : Byte) : Statement (.dec4 opt s0 s1 s2 s3) := by simp [Statement, encode]
theorem sopen (opt : Options) : Statement (.sopen opt) := by simp [Statement, encode]
theorem swr (b : Byte) : Statement (.swr b) := by simp [Statement, encode]
theorem sflush : Statement .sflush := by simp [Statement, encode]
theorem ssusp : Statement .ssusp := by simp [Statement, encode]
theorem sres : Statement .sres := by simp [Statement, encode]
theorem sclose : Statement .sclose := by simp [Statement, encode]
theorem sstat : Statement .sstat := by simp [Statement, encode]

end Sys2Proof.Laws.Opcode
end

