-- ==== Sys2Proof/Laws/Rom.lean ====
section
/-! SUPPORT. The ROMs' small lemmas, each a finite check over the tables (spec/40_lut.md R104 to R110). -/

namespace Sys2Proof.Machine

/-- A data symbol's entry is its 6-bit value: the inverse property of the decode tables (R110 (a)). -/
theorem decRom_encRom (a : Alphabet) (i : BitVec 6) : decRom a (encRom a i) = i.setWidth 8 := by
  revert i; cases a <;> decide

/-- No symbol of an alphabet is `=` (R101 to R103). -/
theorem encRom_ne_padChar (a : Alphabet) (i : BitVec 6) : encRom a i ≠ Config.padChar := by
  revert i; cases a <;> decide

/-- Every symbol has class DATA under its own alphabet. -/
theorem byteClass_encRom (a : Alphabet) (i : BitVec 6) : byteClass a (encRom a i) = .data := by
  revert i; cases a <;> decide

/-- `=` has class PAD in all three alphabets. -/
theorem byteClass_padChar (a : Alphabet) : byteClass a Config.padChar = .pad := by
  cases a <;> decide

/-- The newline byte has class WS in all three alphabets. -/
theorem byteClass_newline (a : Alphabet) : byteClass a Config.newline = .ws := by
  cases a <;> decide

/-- Only `=` has class PAD (R110 (c)). -/
theorem eq_padChar_of_byteClass_pad (a : Alphabet) (b : Byte) (h : byteClass a b = .pad) : b = Config.padChar := by
  revert b; cases a <;> decide

/-- A ROM holds no entry that only the last case of `Class` would name but 0xF7 (R105). -/
theorem decRom_of_invalid (a : Alphabet) (b : Byte) (h : byteClass a b = .invalid) : decRom a b = Config.invCode := by
  revert b; cases a <;> decide

end Sys2Proof.Machine
end

