-- ==== Sys2Proof/Laws/Text.lean ====
section
/-! SUPPORT. Bytes to text and back (spec/45_host_sequences.md R211, R213). -/

namespace Sys2Proof.Machine

@[simp] theorem hostText_nil : hostText [] = some [] := rfl

theorem hostText_cons (b : Byte) (bs : List Byte) :
    hostText (b :: bs) = (asciiChar b).bind fun c => (hostText bs).map (c :: ·) := rfl

/-- The code of an ASCII byte's character is the byte (R213). -/
theorem toNat_char_of_ascii (b : Byte) (h : b.toNat < 128) : (Char.ofNat b.toNat).toNat = b.toNat := by
  have hv : b.toNat.isValidChar := Or.inl (by omega)
  simp [Char.ofNat, hv, Char.toNat, Char.ofNatAux, UInt32.toNat]

/-- Bytes that are all ASCII codes have a text, character by character (R213). -/
theorem hostText_of_ascii (bs : List Byte) (h : ∀ b ∈ bs, b.toNat < 128) :
    hostText bs = some (bs.map fun b => Char.ofNat b.toNat) := by
  induction bs with
  | nil => rfl
  | cons b bs ih =>
    rw [hostText_cons, ih fun x hx => h x (.tail _ hx)]
    simp [asciiChar, h b (.head _)]

/-- A byte from 0x80 has no text. -/
theorem hostText_eq_none (pre post : List Byte) (b : Byte) (h : 128 ≤ b.toNat) : hostText (pre ++ b :: post) = none := by
  induction pre with
  | nil => simp [hostText_cons, asciiChar, Nat.not_lt.2 h]
  | cons c cs ih => rw [List.cons_append, hostText_cons, ih]; cases asciiChar c <;> rfl

end Sys2Proof.Machine
end

