-- ==== Sys2Proof/Tests/Slice0.lean ====
section
/-! SUPPORT. Tests of one step each, and a witness for the hypotheses of every obligation.

Expected results come from the spec: the words and responses of spec/95_test_vectors.md (the section is named at each test),
or a rule worked by hand. -/

namespace Sys2Proof.Machine.Tests

/-- A stream state from its seven fields, in R22's order. -/
def stream (fsm : Fsm) (opt : Options) (buf : BitVec 24) (bufcnt : BitVec 2) (susp : Bool) (line : BitVec 7)
    (pos : BitVec 32) : StreamState :=
  { fsm := fsm, opt := opt, buf := buf, bufcnt := bufcnt, susp := susp, line := line, pos := pos }

/-- A block in the stream state `S`, with nothing issued and nothing answered. -/
def block (S : StreamState) : State := { stream := S, inputs := [], rsps := [] }

/-- A response from its five fields, in the order of the vectors: status, RLEN, RDATA, RBYTE, RPOS. -/
def rsp (st : Status) (len : BitVec 4) (data : BitVec 64) (b : Byte) (pos : BitVec 32) : Rsp :=
  { rstat := st, rlen := len, rdata := data, rbyte := b, rpos := pos }

/-- An OK response with RBYTE and RPOS 0. -/
def ok (len : BitVec 4) (data : BitVec 64) : Rsp := rsp .ok len data 0 0

/-- One step on one command word: the stream state and the responses after it. -/
def run1 (c : CmdWord) (S : StreamState) : Option (StreamState × List Rsp) :=
  match step { stream := S, inputs := [.command c], rsps := [] } with
  | .next t => some (t.stream, t.rsps)
  | .fault _ => none
  | .refused _ => none

/-- The bytes of a text of ASCII characters. -/
def ascii (t : String) : List Byte := t.toList.map fun c => BitVec.ofNat 8 c.toNat

/-- A host that puts `?` for a character outside ASCII and whose compressor only marks its input. -/
def host : Config.HostParams where
  nonAscii _ _ := [0x3F]
  gzip d := [0x1F, 0x8B, 0x08, 0x00] ++ d
  gunzip r := if r.length = 4 then none else some (r.drop 4)

/-! ### Well-formedness -/

/-- A word with one ignored bit set, for every row of R66, is not as the assembler writes it; RSV counts for every row. -/
theorem test_canonicalWord_refuses :
    canonicalWord 0x0000000000000001#64 = false ∧ canonicalWord 0x1000000000000040#64 = false ∧
    canonicalWord 0x2010000000000041#64 = false ∧ canonicalWord 0x303FFFFFAB6E614D#64 = false ∧
    canonicalWord 0x4020000000000000#64 = false ∧ canonicalWord 0x5040000000000001#64 = false ∧
    canonicalWord 0x604000000000002A#64 = false ∧ canonicalWord 0x7040000000000000#64 = false ∧
    canonicalWord 0x8000000100000000#64 = false ∧ canonicalWord 0x9010000000000000#64 = false ∧
    canonicalWord 0xA000000080000000#64 = false ∧ canonicalWord 0xB800000000000000#64 = false ∧
    canonicalWord 0xC000000000000001#64 = false := by decide

/-- The assembled words of spec/95_test_vectors.md section 2 are. -/
theorem test_canonicalWord_accepts :
    canonicalWord 0x30300000006E614D#64 = true ∧ canonicalWord 0x140000000000003E#64 = true ∧
    canonicalWord 0x5040000000000000#64 = true ∧ canonicalWord 0x400000003D455754#64 = true := by decide

/-- The largest operands fit (R63, R66). -/
theorem test_wellFormed_bounds :
    (Instr.lute 63 63).wellFormed = true ∧ (Instr.enc3 63 3 255 255 255).wellFormed = true ∧
    (Instr.dec4 63 255 255 255 255).wellFormed = true := by decide

/-! ### Decoding and encoding: words written out from R60 -/

theorem test_decode_nop : decode 0x0000000000000000#64 = .instr .nop := by decide
theorem test_decode_lute : decode 0x140000000000003E#64 = .instr (.lute 0x10 62) := by decide
theorem test_decode_lute_drops_bits_above_index : decode 0x1000000000000041#64 = .instr (.lute 0x00 1) := by decide
theorem test_decode_lutd : decode 0x2400000000000A5F#64 = .instr (.lutd 0x10 0x5F) := by decide
theorem test_decode_enc3 : decode 0x33D00000006E614D#64 = .instr (.enc3 0x0F 1 0x4D 0x61 0x6E) := by decide
theorem test_decode_enc3_ignored_bits :
    decode 0x303FFFFFAB6E614D#64 = .instr (.enc3 0x00 3 0x4D 0x61 0x6E) := by decide
theorem test_decode_dec4 : decode 0x4800000069344C49#64 = .instr (.dec4 0x20 0x49 0x4C 0x34 0x69) := by decide
theorem test_decode_sopen : decode 0x5640000000000000#64 = .instr (.sopen 0x19) := by decide
theorem test_decode_swr : decode 0x600000000000002A#64 = .instr (.swr 0x2A) := by decide
theorem test_decode_sflush : decode 0x7000000000000000#64 = .instr .sflush := by decide
theorem test_decode_ssusp : decode 0x8000000000000000#64 = .instr .ssusp := by decide
theorem test_decode_sres : decode 0x9000000000000000#64 = .instr .sres := by decide
theorem test_decode_sclose : decode 0xA000000000000000#64 = .instr .sclose := by decide
theorem test_decode_sstat : decode 0xBFFFFFFFFFFFFFFF#64 = .instr .sstat := by decide

/-- The four reserved opcodes (R68). -/
theorem test_decode_reserved :
    decode 0xC000000000000000#64 = .illegal 0xC ∧ decode 0xD000000000000000#64 = .illegal 0xD ∧
    decode 0xE000000000000000#64 = .illegal 0xE ∧ decode 0xFFFFFFFFFFFFFFFF#64 = .illegal 0xF := by decide

/-- Words of spec/95_test_vectors.md sections 2 and 3.1. -/
theorem test_encode_words :
    encode (.enc3 0x00 3 0x4D 0x61 0x6E) = 0x30300000006E614D#64 ∧ encode (.lute 0x10 62) = 0x140000000000003E#64 ∧
    encode (.sopen 0x01) = 0x5040000000000000#64 ∧ encode (.dec4 0x00 0x54 0x57 0x45 0x3D) = 0x400000003D455754#64 ∧
    encode (.lutd 0x20 0x7A) = 0x280000000000007A#64 ∧ encode (.swr 0x2A) = 0x600000000000002A#64 := by decide

theorem test_decodeTableWord :
    decodeTableWord 64 0x30300000006E614D = some (.enc3 0 3 0x4D 0x61 0x6E) ∧
    decodeTableWord 64 0xC000000000000000 = none := by decide

/-! ### One step of each command (spec/95_test_vectors.md section 3) -/

theorem test_nop : run1 0x0000000000000000#64 (stream .failed 0 0x41 1 false 0 1)
    = some (stream .failed 0 0x41 1 false 0 1, [ok 0 0]) := by decide

/-- Section 3.1: URL_SAFE over ORDERED, and no alphabet bit set. -/
theorem test_lute : run1 0x1C0000000000003E#64 StreamState.reset = some (StreamState.reset, [ok 1 0x2D]) ∧
    run1 0x13C000000000003E#64 StreamState.reset = some (StreamState.reset, [ok 1 0x2B]) := by decide

/-- Section 3.1: a sentinel is a value; a byte of the other alphabet is INVALID. -/
theorem test_lutd : run1 0x200000000000003D#64 StreamState.reset = some (StreamState.reset, [ok 1 0xFF]) ∧
    run1 0x240000000000002B#64 StreamState.reset = some (StreamState.reset, [ok 1 0xF7]) := by decide

/-- Section 3.2: the bytes above the count are not read. -/
theorem test_enc3_two_of_three :
    run1 0x38200000006E614D#64 StreamState.reset = some (StreamState.reset, [ok 4 0x3D334C49]) := by decide

theorem test_enc3_count_zero :
    run1 0x30000000006E614D#64 StreamState.reset = some (StreamState.reset, [ok 0 0]) := by decide

/-- Section 3.3: an INVALID symbol in a data position. -/
theorem test_dec4_invalid_symbol :
    run1 0x4000000075805754#64 StreamState.reset = some (StreamState.reset, [ok 3 0xEE7D4D]) := by decide

/-- Section 3.3: "AB=C" takes path 1. -/
theorem test_dec4_third_pad :
    run1 0x40000000433D4241#64 StreamState.reset = some (StreamState.reset, [ok 1 0]) := by decide

/-- R152: out of FAILED with everything pending. -/
theorem test_sopen : run1 0x5240000000000000#64 (stream .failed 0x20 0x414141 3 true 72 9)
    = some (stream .opened 0x09 0 0 false 0 0, [ok 0 0]) := by decide

/-- Program P3, row 58: the newline in the same response, LINE 0 after it; one quantum earlier, no newline; without
DO_BREAK_LINES LINE wraps (R155). -/
theorem test_swr_line : run1 0x60000000000000FF#64 (stream .opened 0x19 0xFFFF 2 false 72 56)
      = some (stream .opened 0x19 0 0 false 0 57, [ok 5 0x0A5F5F5F5F]) ∧
    run1 0x60000000000000FF#64 (stream .opened 0x19 0xFFFF 2 false 68 53)
      = some (stream .opened 0x19 0 0 false 72 54, [ok 4 0x5F5F5F5F]) ∧
    run1 0x60000000000000FF#64 (stream .opened 0x11 0xFFFF 2 false 124 92)
      = some (stream .opened 0x11 0 0 false 0 93, [ok 4 0x5F5F5F5F]) := by decide

/-- Section 3.7: an INVALID byte; the pending bytes stay, POS is not counted. -/
theorem test_swr_invalid : run1 0x600000000000002A#64 (stream .opened 0 0x5754 2 false 0 2)
    = some (stream .failed 0 0x5754 2 false 0 2, [rsp .invalidByte 0 0 0x2A 2]) := by decide

/-- R161: one pending byte, LINE unchanged; "y" gives "eQ==" (program P1). -/
theorem test_sflush_encode : run1 0x7000000000000000#64 (stream .opened 1 0x79 1 false 4 4)
    = some (stream .opened 1 0 0 false 4 4, [ok 4 0x3D3D5165]) := by decide

/-- Section 3.7: symbols pending in the decode direction. -/
theorem test_sflush_decode : run1 0x7000000000000000#64 (stream .opened 0 0x5754 2 false 0 16)
    = some (stream .failed 0 0x5754 2 false 0 16, [rsp .badPadding 0 0 0 16]) := by decide

/-- R163: "Ma" pending. -/
theorem test_ssusp : run1 0x8000000000000000#64 (stream .opened 1 0x614D 2 false 0 2)
    = some (stream .opened 1 0 0 true 0 2, [ok 4 0x3D455754]) := by decide

theorem test_ssusp_fails_unsuspended : run1 0x8000000000000000#64 (stream .opened 0 0x41 1 false 0 1)
    = some (stream .failed 0 0x41 1 false 0 1, [rsp .badPadding 0 0 0 1]) := by decide

theorem test_sres : run1 0x9000000000000000#64 (stream .opened 0x19 0 0 true 8 58)
    = some (stream .opened 0x19 0 0 false 8 58, [ok 0 0]) := by decide

/-- Program P3, row 63. -/
theorem test_sclose : run1 0xA000000000000000#64 (stream .opened 0x19 0xFB 1 false 0 59)
    = some (stream .closed 0x19 0 0 false 0 59, [ok 4 0x3D3D772D]) := by decide

/-- Section 3.8: SCLOSE in CLOSED. -/
theorem test_sclose_closed : run1 0xA000000000000000#64 (stream .closed 1 0 0 false 0 0)
    = some (stream .closed 1 0 0 false 0 0, [rsp .streamClosed 0 0 0 0]) := by decide

/-- Program P4, row 8. -/
theorem test_sstat : run1 0xB000000000000000#64 (stream .failed 0x20 0x49 1 false 0 5)
    = some (stream .failed 0x20 0x49 1 false 0 5, [rsp .ok 8 0x0000000419000049 0 5]) := by decide

/-- Program P1, row 7: LINE in its bits. -/
theorem test_sstat_line : run1 0xB000000000000000#64 (stream .closed 1 0 0 false 4 4)
    = some (stream .closed 1 0 0 false 4 4, [rsp .ok 8 0x0000002030000000 0 4]) := by decide

/-- Section 3.8: a reserved opcode in FAILED. -/
theorem test_illegal : run1 0xF000000000000000#64 (stream .failed 0 0x41 1 false 0 1)
    = some (stream .failed 0 0x41 1 false 0 1, [rsp .illegal 0 0 0 0]) := by decide

/-- R71's packed layout, on the response of section 3.7's INVALID byte. -/
theorem test_packed : (rsp .invalidByte 0 0 0x2A 2).packed = 0x000000022A010000000000000000#112 := by decide

/-- A step runs the word that `withFetchWord` issues. -/
theorem test_withFetchWord : step (State.reset.withFetchWord 64 0x100000000000003F)
    = .next { State.reset with rsps := [ok 1 0x2F] } := rfl

/-- A reset between two commands (R260). -/
theorem test_reset_step :
    step { stream := stream .failed 0x20 0x49 1 true 8 5, inputs := [.reset], rsps := [ok 0 0] }
      = .next { stream := stream .idle 0 0 0 false 0 0, inputs := [], rsps := [ok 0 0] } := rfl

/-! ### The host's procedures (spec/95_test_vectors.md section 3.9) and the assembler -/

theorem test_hostEncode :
    hostEncode host State.reset (ascii "Many") 0 = ascii "TWFueQ==" ∧
    hostEncode host State.reset (ascii "Ma") 0 = ascii "TWE=" ∧
    hostEncode host State.reset [0xFB, 0xEF, 0xBE] 48 = ascii "----" ∧
    hostEncode host State.reset [0xFB, 0xEF, 0xBE] 32 = ascii "yyyy" := by decide

theorem test_hostDecode :
    hostDecode (ascii " T W\tF\r\nu ") 0 = .bytes (ascii "Man") ∧
    hostDecode (ascii "TQ==*!") 0 = .bytes (ascii "M") ∧
    hostDecode (ascii "TQ=ATWFu") 0 = .bytes (ascii "MMan") ∧
    hostDecode (ascii "TWFuTQ") 0 = .bytes (ascii "Man") ∧
    hostDecode (ascii "=AAA") 0 = .bytes [0xFC, 0x00, 0x00] ∧
    hostDecode (ascii "TWE=TWFu") 0 = .bytes (ascii "Ma") ∧
    hostDecode (ascii "TW*u") 0 = .invalidByte 42 2 ∧
    hostDecode (ascii "TWFu" ++ [0x80]) 0 = .invalidByte 128 4 ∧
    hostDecode (ascii "TWE") 0 = .underlength := by decide

/-- Program P1: the sink's bytes, and its close. -/
theorem test_streamRun : streamRun State.reset 1 (ascii "Many") = ascii "TWFueQ==" := by decide

theorem test_sink : sinkStep 0xA000000000000000#64 (ok 4 0x3D3D5165)
    = [.write 0x65, .write 0x51, .write 0x3D, .write 0x3D, .close] ∧
    sinkStep 0xA000000000000000#64 (rsp .badPadding 0 0 0 1) = [] ∧ sinkStep 0x140000000000003E#64 (ok 1 0x2D) = [] := by
  decide

/-- R204: with GZIP set the compressed bytes go through the stream; [1F 8B 08 00] is "H4sIAA==". -/
theorem test_hostEncode_gzip : hostEncode host State.reset [] 2 = ascii "H4sIAA==" := by decide

/-- Text (R213): an encode is ASCII; a suspended byte from 0x80 has no text (rule R154 lets it through). -/
theorem test_hostText :
    hostEncodeText host State.reset (ascii "Many") 0 = some "TWFueQ==".toList ∧ hostText [0x7F] = some [Char.ofNat 127] ∧
    hostText [0x41, 0x80] = none := by decide

/-- D47: an ASCII character gives its code beside one that is not. -/
theorem test_hostStringToBytes : hostStringToBytes host ['T', Char.ofNat 233, '='] = [0x54, 0x3F, 0x3D] := by decide

/-- Lines of spec/95_test_vectors.md sections 3.1, 3.2, 3.7 and program P3. -/
theorem test_assemble :
    assembleLine "LUTE #0x30, 62".toList = some [0x1C0000000000003E#64] ∧
    assembleLine "ENC3 std, 3, [0x4D 0x61 0x6E]".toList = some [0x30300000006E614D#64] ∧
    assembleLine "SENC DO_BREAK_LINES|URL_SAFE ; open".toList = some [0x5640000000000000#64] := by decide

theorem test_assemble_bytes :
    assembleLine "DEC4 std, \"TWE=\"".toList = some [0x400000003D455754#64] ∧
    assembleLine "SWR '*'".toList = some [0x600000000000002A#64] ∧
    assembleLine "SWRS \"T\\n\"".toList = some [0x6000000000000054#64, 0x600000000000000A#64] ∧
    assembleLine "LUTE std, 64".toList = none := by decide

/-! ### Witnesses: the hypotheses of the obligations, met -/

theorem witness_OptionBitsAndAlphabetSelect :
    (optEncode 0x3E = false ∧ optEncode 0x01 = true ∧ optGzip 0x02 = true ∧ optDontGunzip 0x04 = true ∧
      optBreakLines 0x08 = true ∧ optBreakLines 0x37 = false) ∧
    (0x10 : Options).toNat / 16 = (0x1F : Options).toNat / 16 ∧ (0x10 : Options) ≠ 0x1F ∧
    (0x2F : Options).toNat / 16 = (0x20 : Options).toNat / 16 := by decide

theorem witness_EncodeRomContents : encRom .ordered 37 = encRom .ordered 37 := rfl

theorem witness_DecodeRomConstruction :
    encRom .standard 62 = 0x2B ∧ (∀ i : BitVec 6, encRom .urlSafe i ≠ 0x2B) ∧ (∀ i : BitVec 6, encRom .ordered i ≠ 0x3D) ∧
    (∀ i : BitVec 6, encRom .standard i ≠ 0x20) ∧ 128 ≤ (0x80 : Byte).toNat ∧ 128 ≤ (0xFF : Byte).toNat := by decide

theorem witness_RomProperties :
    classOf (decRom .standard 0x2D) = .invalid ∧ encRom .urlSafe 63 = encRom .urlSafe 63 ∧
    (36 : BitVec 6).toNat < (37 : BitVec 6).toNat ∧ (37 : BitVec 6).toNat < (38 : BitVec 6).toNat := by decide

theorem witness_DecoderIsTotal :
    opNumber 0x0FFFFFFFFFFFFFFF#64 < 12 ∧ opNumber 0xBFFFFFFFFFFFFFFF#64 < 12 ∧ 12 ≤ opNumber 0xC000000000000000#64 ∧
    12 ≤ opNumber 0xFFFFFFFFFFFFFFFF#64 := by decide

theorem witness_OperandsAreTheTablesFields :
    opNumber 0x0000000000000001#64 = 0x0 ∧ opNumber 0x1FFFFFFFFFFFFFFF#64 = 0x1 ∧ opNumber 0x2010000000000041#64 = 0x2 ∧
    opNumber 0x303FFFFFAB6E614D#64 = 0x3 ∧ opNumber 0x400000003D455754#64 = 0x4 ∧ opNumber 0x5640000000000000#64 = 0x5 ∧
    opNumber 0x600000000000002A#64 = 0x6 ∧ opNumber 0x7000000000000000#64 = 0x7 ∧ opNumber 0x8000000000000000#64 = 0x8 ∧
    opNumber 0x9000000000000000#64 = 0x9 ∧ opNumber 0xA000000000000000#64 = 0xA ∧ opNumber 0xB000000000000000#64 = 0xB := by
  decide

theorem witness_DecodeEncodeRoundTrip :
    Instr.nop.wellFormed = true ∧ (Instr.dec4 63 255 0 255 0).wellFormed = true ∧ (Instr.swr 255).wellFormed = true ∧
    decode 0x140000000000003E#64 = .instr (.lute 0x10 62) ∧ canonicalWord 0x140000000000003E#64 = true := by decide

/-- RSV and the lane above the three bytes; the OPT bits that LUTE ignores; every field of SFLUSH. -/
theorem witness_OnlyReadBitsMatter :
    (opNumber 0x303FFFFFAB6E614D#64 = opNumber 0x30300000006E614D#64 ∧
      0x303FFFFFAB6E614D#64 &&& readBits (opNumber 0x303FFFFFAB6E614D#64)
        = 0x30300000006E614D#64 &&& readBits (opNumber 0x303FFFFFAB6E614D#64) ∧ 0x303FFFFFAB6E614D#64 ≠ 0x30300000006E614D#64) ∧
    (opNumber 0x13C000000000003E#64 = opNumber 0x100000000000003E#64 ∧
      0x13C000000000003E#64 &&& readBits (opNumber 0x13C000000000003E#64)
        = 0x100000000000003E#64 &&& readBits (opNumber 0x13C000000000003E#64) ∧ 0x13C000000000003E#64 ≠ 0x100000000000003E#64) ∧
    (opNumber 0x7FFFFFFFFFFFFFFF#64 = opNumber 0x7000000000000000#64 ∧
      0x7FFFFFFFFFFFFFFF#64 &&& readBits (opNumber 0x7FFFFFFFFFFFFFFF#64)
        = 0x7000000000000000#64 &&& readBits (opNumber 0x7FFFFFFFFFFFFFFF#64) ∧ 0x7FFFFFFFFFFFFFFF#64 ≠ 0x7000000000000000#64) := by decide

theorem witness_stateless_opcodes :
    opNumber 0x0123456789ABCDEF#64 = 0x0 ∧ opNumber 0x140000000000003E#64 = 0x1 ∧ opNumber 0x20000000000000C1#64 = 0x2 ∧
    opNumber 0x33D00000006E614D#64 = 0x3 ∧ opNumber 0x4000000075465754#64 = 0x4 ∧ opNumber 0x5240000000000000#64 = 0x5 ∧
    0x80 ≤ (0x80 : Byte).toNat := by decide

theorem witness_Enc3EncodesQuantum_counts :
    (0 : BitVec 2) = 0 ∧ (1 : BitVec 2) ≠ 0 ∧ (2 : BitVec 2) ≠ 0 ∧ (3 : BitVec 2) ≠ 0 := by decide

/-- `quantumSymbols` and `quantumBytes` at each count and on each path (section 3.2, section 3.3). -/
theorem witness_quantum_functions :
    quantumSymbols .standard 0x4D 0x61 0x6E 1 = [0x54, 0x51, 0x3D, 0x3D] ∧
    quantumSymbols .standard 0x4D 0x61 0x6E 2 = [0x54, 0x57, 0x45, 0x3D] ∧
    quantumSymbols .ordered 0x4D 0x61 0x6E 3 = [0x49, 0x4C, 0x34, 0x69] ∧
    quantumBytes .standard 0x41 0x3D 0x3D 0x3D = [0x0F] ∧ quantumBytes .standard 0x54 0x57 0x45 0x3D = [0x4D, 0x61] ∧
    quantumBytes .standard 0x41 0x3D 0x41 0x41 = [0x0F, 0xF0, 0x00] := by decide

theorem witness_QuantumRoundTrip : (1 : BitVec 2) ≠ 0 ∧ (3 : BitVec 2) ≠ 0 := by decide

theorem witness_NonStreamCommandsIgnoreStream :
    isNonStream .nop = true ∧ isNonStream (.lute 0 0) = true ∧ isNonStream (.lutd 0 0) = true ∧
    isNonStream (.enc3 0 0 0 0 0) = true ∧ isNonStream (.dec4 0 0 0 0 0) = true ∧
    exec .nop State.reset = .next { State.reset with rsps := [ok 0 0] } := ⟨rfl, rfl, rfl, rfl, rfl, rfl⟩

theorem witness_GateStopsOutsideOpen :
    (isGated (.swr 0x41) = true ∧ isGated .sflush = true ∧ isGated .ssusp = true ∧ isGated .sres = true ∧
      isGated .sclose = true) ∧
    (block (stream .idle 0 0 0 false 0 0)).stream.fsm = .idle ∧ (block (stream .closed 1 0 0 false 0 0)).stream.fsm = .closed ∧
    (block (stream .failed 0 0x41 1 false 0 1)).stream.fsm = .failed := by decide

/-- Suspended, in either direction. -/
theorem witness_SwrSuspendedPassesByte :
    ((stream .opened 1 0 0 true 8 3).fsm = .opened ∧ (stream .opened 1 0 0 true 8 3).susp = true) ∧
    ((stream .opened 0 0 0 true 0 3).fsm = .opened ∧ (stream .opened 0 0 0 true 0 3).susp = true) := by decide

/-- Encode direction with 0, 1 and 2 bytes pending; the line just below and just at 76 after the quantum, and not broken. -/
theorem witness_SwrEncodeBuffersAndEncodes :
    (∀ S ∈ [stream .opened 1 0 0 false 0 0, stream .opened 9 0x4D 1 false 4 1],
      S.fsm = .opened ∧ S.susp = false ∧ optEncode S.opt = true ∧ S.bufcnt.toNat < 2) ∧
    (∀ S ∈ [stream .opened 9 0x614D 2 false 68 56, stream .opened 9 0x614D 2 false 72 56, stream .opened 1 0x614D 2 false 72 56],
      S.fsm = .opened ∧ S.susp = false ∧ optEncode S.opt = true ∧ S.bufcnt.toNat = 2) ∧
    (optBreakLines 9 = true ∧ ¬ 76 ≤ (68 + 4) % 128 ∧ 76 ≤ (72 + 4) % 128 ∧ optBreakLines 1 = false) := by decide

/-- Decode direction with 0, 2 and 3 symbols pending, a DATA byte and a PAD byte. -/
theorem witness_SwrDecodeSymbolBuffersAndDecodes :
    (∀ S ∈ [stream .opened 0 0 0 false 0 0, stream .opened 0 0x5754 2 false 0 2],
      S.fsm = .opened ∧ S.susp = false ∧ optEncode S.opt = false ∧ S.bufcnt.toNat < 3) ∧
    (∀ S ∈ [stream .opened 0 0x465754 3 false 0 3],
      S.fsm = .opened ∧ S.susp = false ∧ optEncode S.opt = false ∧ S.bufcnt.toNat = 3) ∧
    byteClass (alphaSel 0) 0x75 = .data ∧ byteClass (alphaSel 0) 0x3D = .pad := by decide

theorem witness_SwrDecodeSpaceIsDiscarded :
    (stream .opened 0x20 0x49 1 false 0 1).fsm = .opened ∧ (stream .opened 0x20 0x49 1 false 0 1).susp = false ∧
    optEncode (stream .opened 0x20 0x49 1 false 0 1).opt = false ∧ (0x0A : Byte) ∈ ([0x09, 0x0A, 0x0D, 0x20] : List Byte) := by
  decide

theorem witness_SwrDecodeInvalidFails :
    (stream .opened 0 0x5754 2 false 0 2).fsm = .opened ∧ (stream .opened 0 0x5754 2 false 0 2).susp = false ∧
    optEncode (stream .opened 0 0x5754 2 false 0 2).opt = false ∧
    byteClass (alphaSel (stream .opened 0 0x5754 2 false 0 2).opt) 0x2A = .invalid ∧
    (block (stream .failed 0 0x5754 2 false 0 2)).stream = { stream .opened 0 0x5754 2 false 0 2 with fsm := .failed } ∧
    isGated .sflush = true := by decide

/-- The three clauses of a flush (SFLUSH, SSUSP, SCLOSE): nothing pending in either direction; one and two bytes to encode;
one and three symbols to decode; and the states in which the gate stops them. -/
theorem witness_flush_clauses :
    (∀ f ∈ [Fsm.idle, .closed, .failed], (stream f 0 0 0 false 0 0).fsm = f) ∧
    (∀ S ∈ [stream .opened 1 0 0 false 4 3, stream .opened 0 0 0 false 0 4], S.fsm = .opened ∧ S.bufcnt = 0) ∧
    (∀ S ∈ [stream .opened 1 0x4D 1 false 4 4, stream .opened 9 0x614D 2 false 72 5],
      S.fsm = .opened ∧ S.bufcnt ≠ 0 ∧ optEncode S.opt = true) ∧
    (∀ S ∈ [stream .opened 0 0x54 1 false 0 1, stream .opened 0 0x465754 3 false 0 3],
      S.fsm = .opened ∧ S.bufcnt ≠ 0 ∧ optEncode S.opt = false) := by decide

theorem witness_SresResumes : (block (stream .opened 1 0 0 true 0 7)).stream.fsm = .opened := rfl

theorem witness_SstatReadsEveryField :
    State.reset = State.reset ∧ Answers .sstat State.reset State.reset.stream (rsp .ok 8 0 0 0) := ⟨rfl, rfl⟩

/-- `S.OPT` changes: at an SOPEN, and at a reset. -/
theorem witness_OptionsChangeOnlyAtSopenAndReset :
    step ((block (stream .closed 1 0 0 false 0 0)).withFetchWord 64 0x5640000000000000)
      = .next { stream := stream .opened 0x19 0 0 false 0 0, inputs := [], rsps := [ok 0 0] } ∧
    (0x19 : Options) ≠ 1 ∧
    step { block (stream .closed 1 0 0 false 0 0) with inputs := [.reset] } = .next State.reset ∧ (0 : Options) ≠ 1 :=
  ⟨rfl, by decide, rfl, by decide⟩

/-- SUSP: set by SSUSP; cleared by a reset, SRES, SCLOSE and SOPEN. -/
theorem witness_SuspendedFlagChangesAsStated :
    (step ((block (stream .opened 0 0 0 false 0 0)).withFetchWord 64 0x8000000000000000)
      = .next { stream := stream .opened 0 0 0 true 0 0, inputs := [], rsps := [ok 0 0] }) ∧
    (step { block (stream .opened 0 0 0 true 0 0) with inputs := [.reset] } = .next State.reset) ∧
    (step ((block (stream .opened 0 0 0 true 0 0)).withFetchWord 64 0x9000000000000000)
      = .next { stream := stream .opened 0 0 0 false 0 0, inputs := [], rsps := [ok 0 0] }) ∧
    (step ((block (stream .opened 0 0 0 true 0 0)).withFetchWord 64 0xA000000000000000)
      = .next { stream := stream .closed 0 0 0 false 0 0, inputs := [], rsps := [ok 0 0] }) ∧
    (step ((block (stream .opened 0 0 0 true 0 0)).withFetchWord 64 0x5000000000000000)
      = .next { stream := stream .opened 0 0 0 false 0 0, inputs := [], rsps := [ok 0 0] }) :=
  ⟨rfl, rfl, rfl, rfl, rfl⟩

/-- POS at its last value wraps on an accepted byte (R160), and a gated SWR is not counted. -/
theorem witness_PositionCountsAcceptedBytes :
    run1 0x6000000000000021#64 (stream .opened 1 0 0 true 0 0xFFFFFFFF) = some (stream .opened 1 0 0 true 0 0, [ok 1 0x21]) ∧
    run1 0x6000000000000021#64 (stream .closed 1 0 0 false 0 3)
      = some (stream .closed 1 0 0 false 0 3, [rsp .streamClosed 0 0 0 0]) ∧
    decode 0x6000000000000021#64 = .instr (.swr 0x21) ∧ decode 0x9000000000000000#64 = .instr .sres ∧
    decode 0x5000000000000000#64 = .instr (.sopen 0) := by decide

/-- FAILED is entered by an SWR and by a flush. -/
theorem witness_EnteringFailedChangesOnlyFsm :
    (stream .opened 0 0x54 1 false 0 1).fsm ≠ .failed ∧
    run1 0x6000000000000080#64 (stream .opened 0 0x54 1 false 0 1)
      = some (stream .failed 0 0x54 1 false 0 1, [rsp .invalidByte 0 0 0x80 1]) ∧
    run1 0xA000000000000000#64 (stream .opened 0 0x54 1 false 0 1)
      = some (stream .failed 0 0x54 1 false 0 1, [rsp .badPadding 0 0 0 1]) := by decide

theorem witness_FailedIsSticky :
    (block (stream .failed 0 0x54 1 false 0 1)).stream.fsm = .failed ∧
    step ((block (stream .failed 0 0x54 1 false 0 1)).withFetchWord 64 0x6000000000000041)
      = .next { stream := stream .failed 0 0x54 1 false 0 1, inputs := [], rsps := [rsp .streamFailed 0 0 0 0] } :=
  ⟨rfl, rfl⟩

/-- A response that is not OK with each kind of detail, one with none, and a response with every lane used. -/
theorem witness_response_shapes :
    run1 0x6000000000000080#64 (stream .opened 0 0x54 1 false 0 1)
      = some (stream .failed 0 0x54 1 false 0 1, [rsp .invalidByte 0 0 0x80 1]) ∧
    run1 0xD000000000000000#64 StreamState.reset = some (StreamState.reset, [rsp .illegal 0 0 0 0]) ∧
    (rsp .invalidByte 0 0 0x80 1).rstat ≠ .ok ∧ (rsp .invalidByte 0 0 0x80 1).rbyte ≠ 0 ∧
    (rsp .badPadding 0 0 0 1).rpos ≠ 0 ∧ (ok 5 0x0A5F5F5F5F).rlen.toNat ≤ 5 ∧ (ok 0 0).rlen.toNat ≤ 0 := by decide

/-- FsmFollowsTransitionTable: an SOPEN, and each status of the gate. -/
theorem witness_FsmFollowsTransitionTable :
    decode 0x5640000000000000#64 = .instr (.sopen 0x19) ∧
    run1 0x9000000000000000#64 (stream .idle 0 0 0 false 0 0)
      = some (stream .idle 0 0 0 false 0 0, [rsp .notOpen 0 0 0 0]) ∧
    run1 0x8000000000000000#64 (stream .closed 1 0 0 false 4 4)
      = some (stream .closed 1 0 0 false 4 4, [rsp .streamClosed 0 0 0 0]) ∧
    run1 0x7000000000000000#64 (stream .failed 0 0x41 1 false 0 1)
      = some (stream .failed 0 0x41 1 false 0 1, [rsp .streamFailed 0 0 0 0]) := by decide

theorem witness_ReservedOpcodeIsNotSticky :
    12 ≤ opNumber 0xC000000000000000#64 ∧ 12 ≤ opNumber 0xFFFFFFFFFFFFFFFF#64 := by decide

theorem witness_StepRunsDecodedCommand :
    ({ State.reset with inputs := [.command 0xB000000000000000#64] } : State).inputs = .command 0xB000000000000000#64 :: [] ∧
    decode 0xB000000000000000#64 = .instr .sstat ∧ Instr.sstat.wellFormed = true ∧
    decodeTableWord 64 0xB000000000000000 = some .sstat := by decide

theorem witness_UncommandedStepsOnlyReset :
    ({ State.reset with inputs := [.reset, .command 0] } : State).inputs = .reset :: [.command 0] ∧
    State.reset.inputs = [] := by decide

theorem witness_EveryStepAnswersOnce :
    ({ State.reset with inputs := [.command 0, .reset] } : State).inputs = .command 0 :: [.reset] ∧
    (∀ c rest, State.reset.inputs ≠ .command c :: rest) := ⟨rfl, fun _ _ h => nomatch h⟩

/-- The invariant holds of a stream with two symbols pending, not only at reset, and a step goes on from it. -/
theorem witness_StepKeepsInv :
    State.Inv { block (stream .opened 0 0x3D54 2 false 0 2) with inputs := [.command 0x600000000000003D#64] } ∧
    step { block (stream .opened 0 0x3D54 2 false 0 2) with inputs := [.command 0x600000000000003D#64] }
      = .next { stream := stream .opened 0 0x3D3D54 3 false 0 3, inputs := [], rsps := [ok 0 0] } :=
  ⟨⟨by decide, by decide, by decide, by decide, by decide⟩, rfl⟩

/-- The invariant refuses a state that no command leaves: a lane above BUFCNT that is not 0, a suspended stream with a byte
pending, a count of 3 in the encode direction, a full line, an INVALID symbol pending. -/
theorem test_Inv_refuses :
    ¬ (stream .opened 1 0x4D00 1 false 0 1).UnusedLanesZero ∧ ¬ (stream .opened 1 0x4D 1 true 0 1).CountLegal ∧
    ¬ (stream .opened 1 0x4D4D4D 3 false 0 3).CountLegal ∧ ¬ (stream .opened 9 0 0 false 76 57).LineLegal ∧
    ¬ (stream .closed 1 0 0 true 0 0).ModeLegal ∧ ¬ (stream .opened 0 0x2A 1 false 0 1).PendingAreSymbols := by decide

/-- Encoded output of each command that has some, and of none: LUTE, ENC3, SWR and a flush in the encode direction, a suspended
SWR; the options of an encode stream; a whole-buffer encode with ENCODE clear and with GZIP set. -/
theorem witness_EncodedOutputIsSevenBit :
    encodedOutputOf StreamState.reset (.instr (.lute 0x10 62)) = some .urlSafe ∧
    encodedOutputOf StreamState.reset (.instr (.enc3 0x20 3 0x4D 0x61 0x6E)) = some .ordered ∧
    encodedOutputOf (stream .opened 9 0x614D 2 false 72 56) (.instr (.swr 0x6E)) = some .standard ∧
    encodedOutputOf (stream .opened 1 0x79 1 false 4 4) (.instr .sflush) = some .standard ∧
    encodedOutputOf (stream .opened 1 0 0 true 4 4) (.instr (.swr 0x80)) = none ∧
    optEncode 1 = true ∧ hostEncode host State.reset (ascii "Man") 0 = ascii "TWFu" ∧
    (hostEncode host State.reset [] 2).length = 8 := by decide

/-- Options for the whole-buffer statements, with and without line breaks, in each direction. -/
theorem witness_host_options :
    optGzip 0 = false ∧ optGzip 8 = false ∧ optGzip 9 = false ∧ optBreakLines 8 = true ∧ optBreakLines 9 = true ∧
    optEncode 9 = true ∧ optEncode 0 = false ∧ alphaSel 0 = alphaSel 9 ∧
    76 < (hostEncode host State.reset (List.replicate 58 0) 9).length ∧
    ([] : List Byte).length = 0 ∧ encodedLength 57 true = 76 ∧ encodedLength 58 true = 81 ∧
    trailingNewline 9 57 = [0x0A] ∧ trailingNewline 9 58 = [] ∧ trailingNewline 9 0 = [] := by decide

theorem witness_HostDecodeShortRanges :
    (0 < (ascii "T").length ∧ (ascii "T").length < 4) ∧ (0 < (ascii "***").length ∧ (ascii "***").length < 4) := by decide

theorem witness_HostDecodeStopsAtTerminalPad :
    (∀ b ∈ ascii "TWFu", byteClass (alphaSel 0) b = .data) ∧ (ascii "TWFu").length % 4 = 0 ∧
    byteClass (alphaSel 0) 0x54 = .data ∧ byteClass (alphaSel 0) 0x3D = .pad ∧
    (∀ b ∈ ([] : List Byte), byteClass (alphaSel 0) b = .data) ∧ ([] : List Byte).length % 4 = 0 := by decide

theorem witness_HostDecodeContinuesAfterQuantum :
    byteClass (alphaSel 0) 0x54 = .data ∧ byteClass (alphaSel 0) 0x3D = .pad ∧ byteClass (alphaSel 0) 0x41 = .data ∧
    4 ≤ (ascii "TWFu").length := by decide

theorem witness_HostDecodeDropsPartialTail :
    (∀ b ∈ ascii "TWFu", byteClass (alphaSel 0) b = .data) ∧ (ascii "TWFu").length % 4 = 0 ∧ ascii "TWFu" ≠ [] ∧
    (ascii "TQ=").length < 4 ∧ ([] : List Byte).length < 4 ∧
    (∀ b ∈ ascii "TQ=", byteClass (alphaSel 0) b = .data ∨ byteClass (alphaSel 0) b = .pad) := by decide

theorem witness_HostDecodeReportsFirstInvalid :
    (∀ b ∈ ascii "T W", byteClass (alphaSel 0) b = .data ∨ byteClass (alphaSel 0) b = .ws) ∧
    byteClass (alphaSel 0) 0x2A = .invalid ∧ 4 ≤ (ascii "T W" ++ 0x2A :: ([] : List Byte)).length := by decide

theorem witness_HostDecodeIgnoresWhitespace :
    (∀ b ∈ ascii " T W\tF\r\nu ", byteClass (alphaSel 0) b ≠ .invalid) ∧
    4 ≤ ((ascii " T W\tF\r\nu ").filter fun b => byteClass (alphaSel 0) b ≠ .ws).length := by decide

/-- Strings that are wholly ASCII, the last code among them. -/
theorem witness_ascii_strings : ∀ c ∈ ['T', Char.ofNat 127], c.toNat < 128 := by
  intro c h; simp only [List.mem_cons, List.not_mem_nil, or_false] at h; rcases h with rfl | rfl <;> decide

/-- A result with the magic number that gunzips, one whose decompression fails, one without the number, and an error. -/
theorem witness_HostDecodeStringGunzips :
    hostDecode (hostStringToBytes host "H4sIAE0=".toList) 0 = .bytes [0x1F, 0x8B, 0x08, 0x00, 0x4D] ∧
    host.gunzip [0x1F, 0x8B, 0x08, 0x00, 0x4D] = some [0x4D] ∧
    hostDecode (hostStringToBytes host "H4sIAA==".toList) 0 = .bytes [0x1F, 0x8B, 0x08, 0x00] ∧
    host.gunzip [0x1F, 0x8B, 0x08, 0x00] = none ∧ (0 : Options).toNat / 4 % 2 = 0 ∧ (4 : Options).toNat / 4 % 2 = 1 ∧
    hostDecode (hostStringToBytes host "TWFu".toList) 0 = .bytes [0x4D, 0x61, 0x6E] ∧
    hostDecode (hostStringToBytes host "TW*u".toList) 0 = .invalidByte 0x2A 2 ∧
    hostDecodeString host "H4sIAE0=".toList 0 = .bytes [0x4D] ∧
    hostDecodeString host "H4sIAE0=".toList 4 = .bytes [0x1F, 0x8B, 0x08, 0x00, 0x4D] := by decide

theorem witness_AssemblerWritesCanonicalWords : 0x6000000000000041#64 ∈ (Asm.swrs [0x41]).words := by decide

end Sys2Proof.Machine.Tests
end

section
/-! The bits of an options value on numbers, and the alphabet they select (spec/00_scope.md R6, spec/40_lut.md R100). -/

namespace Sys2Proof.Machine

/-- A bit of a word, as a quotient of its number: the reading of R6's bit numbers that every lemma below uses. -/
theorem getLsbD_iff_toNat_div {w : Nat} (v : BitVec w) (i : Nat) : v.getLsbD i = true ↔ v.toNat / 2 ^ i % 2 = 1 := by
  rw [BitVec.getLsbD, Nat.testBit_eq_decide_div_mod_eq, decide_eq_true_iff]

theorem optEncode_iff (opt : Options) : optEncode opt = true ↔ opt.toNat % 2 = 1 := by
  simpa [optEncode] using getLsbD_iff_toNat_div opt 0

theorem optGzip_iff (opt : Options) : optGzip opt = true ↔ opt.toNat / 2 % 2 = 1 :=
  getLsbD_iff_toNat_div opt 1

theorem optDontGunzip_iff (opt : Options) : optDontGunzip opt = true ↔ opt.toNat / 4 % 2 = 1 :=
  getLsbD_iff_toNat_div opt 2

theorem optBreakLines_iff (opt : Options) : optBreakLines opt = true ↔ opt.toNat / 8 % 2 = 1 :=
  getLsbD_iff_toNat_div opt 3

theorem StreamState.encodes_iff (S : StreamState) : S.encodes = true ↔ S.opt.toNat % 2 = 1 := by
  rw [S.encodes_eq, optEncode_iff]

/-- R100's priority chain on numbers: URL_SAFE is bit 4, ORDERED bit 5. -/
theorem alphaSel_eq (opt : Options) : alphaSel opt =
    if opt.toNat / 16 % 2 = 1 then .urlSafe else if opt.toNat / 32 % 2 = 1 then .ordered else .standard := by
  have url : opt.getLsbD 4 = true ↔ opt.toNat / 16 % 2 = 1 := getLsbD_iff_toNat_div opt 4
  have ordered : opt.getLsbD 5 = true ↔ opt.toNat / 32 % 2 = 1 := getLsbD_iff_toNat_div opt 5
  simp only [alphaSel, url, ordered]

/-- Only bits 5:4 count: bit 5 too is a bit of the quotient by 16. -/
theorem alphaSel_congr {opt opt' : Options} (h : opt.toNat / 16 = opt'.toNat / 16) : alphaSel opt = alphaSel opt' := by
  have bit5 : opt.toNat / 32 = opt'.toNat / 32 := by omega
  rw [alphaSel_eq, alphaSel_eq, h, bit5]

/-- Settles O1: each bit is a quotient of the value's number, and `alphaSel` is R100's priority chain over bits 4 and 5. -/
theorem optionBitsAndAlphabetSelect : Obligations.OptionBitsAndAlphabetSelect :=
  ⟨fun opt => ⟨optEncode_iff opt, optGzip_iff opt, optDontGunzip_iff opt, optBreakLines_iff opt⟩,
    fun S => ⟨S.encodes_iff, S.alphabet_eq⟩, alphaSel_eq, fun _ _ => alphaSel_congr, by decide, by decide⟩

end Sys2Proof.Machine
end

section
/-! The reset value of `S` and what SOPEN writes of it (spec/10_state.md R35, spec/42_stream.md R152). -/

namespace Sys2Proof.Machine

/-- `Answers` is the command's rule as a function of `S` (R10). -/
theorem answers_iff (i : Instr) (s : State) (S' : StreamState) (r : Rsp) :
    Answers i s S' r ↔ answer i s.stream = (S', r) :=
  exec_eq_next_iff i s S' r

theorem State.reset_stream :
    State.reset.stream = { fsm := .idle, opt := 0, buf := 0, bufcnt := 0, susp := false, line := 0, pos := 0 } := rfl

/-- SOPEN's writes are the reset value but for `S.FSM` and `S.OPT` (R35). -/
theorem StreamState.openStream_eq_reset (opt : Options) :
    StreamState.openStream opt = { State.reset.stream with fsm := .opened, opt := opt } := rfl

/-- SOPEN is legal in every state and answers OK without bytes (R152). -/
theorem answers_sopen (opt : Options) (s : State) :
    Answers (.sopen opt) s (StreamState.openStream opt) (emit []) :=
  (answers_iff _ _ _ _).2 rfl

/-- Settles O43: reset puts 0 in every field, and SOPEN answers with the same record but for `S.FSM` and `S.OPT`. -/
theorem resetLeavesIdleStream : Obligations.ResetLeavesIdleStream := by
  refine ⟨State.reset_stream, rfl, fun opt s => ⟨emit [], ?_⟩⟩
  rw [← StreamState.openStream_eq_reset]
  exact answers_sopen opt s

end Sys2Proof.Machine
end

section
/-! The fields of a command word as quotients of its number, and the decoder by them (spec/30_encoding.md R60, R61, R66). -/

namespace Sys2Proof.Machine

/-- A field of a word is its quotient by the field's place, in the field's width. -/
theorem extractLsb'_eq_ofNat_div {w : Nat} (v : BitVec w) (start len : Nat) :
    v.extractLsb' start len = BitVec.ofNat len (v.toNat / 2 ^ start) := by
  rw [BitVec.extractLsb', Nat.shiftRight_eq_div_pow]

theorem fieldOp_eq_ofNat (c : CmdWord) : fieldOp c = BitVec.ofNat 4 (opNumber c) :=
  extractLsb'_eq_ofNat_div c 60 4

/-- OP is the word's topmost field, so its quotient needs no remainder. -/
theorem fieldOp_toNat (c : CmdWord) : (fieldOp c).toNat = opNumber c := by
  have hc : c.toNat < 2 ^ 64 := c.isLt
  rw [fieldOp_eq_ofNat, BitVec.toNat_ofNat, opNumber]
  omega

theorem fieldOpt_eq_optOf (c : CmdWord) : fieldOpt c = optOf c :=
  extractLsb'_eq_ofNat_div c 54 6

theorem fieldCnt_eq_ofNat (c : CmdWord) : fieldCnt c = BitVec.ofNat 2 (c.toNat / 2 ^ 52) :=
  extractLsb'_eq_ofNat_div c 52 2

/-- A field inside DATA is the same field of the word. -/
theorem extractLsb'_fieldData (c : CmdWord) (start len : Nat) (h : start + len ≤ 32) :
    (fieldData c).extractLsb' start len = c.extractLsb' start len := by
  simp [fieldData, BitVec.extractLsb'_extractLsb'_of_le h]

theorem index_eq_ofNat (c : CmdWord) : (fieldData c).extractLsb' 0 6 = BitVec.ofNat 6 c.toNat := by
  rw [extractLsb'_fieldData c 0 6 (by omega), extractLsb'_eq_ofNat_div, Nat.pow_zero, Nat.div_one]

theorem lane_fieldData (c : CmdWord) (k : Nat) (hk : k < 4) : lane (fieldData c) k = dataLane c k := by
  rw [lane, extractLsb'_fieldData c _ _ (by omega), extractLsb'_eq_ofNat_div, dataLane]

/-- Settles O6: the decoder's fields are the quotients the table names, so each opcode selects its row. -/
theorem operandsAreTheTablesFields : Obligations.OperandsAreTheTablesFields := by
  intro c
  refine ⟨?_, ?_, ?_, ?_, ?_, ?_, ?_, ?_, ?_, ?_, ?_, ?_⟩ <;> intro h <;>
    simp [decode, fieldOp_toNat, h, fieldOpt_eq_optOf, fieldCnt_eq_ofNat, index_eq_ofNat, lane_fieldData]

/-- From 0xC up the decoder names the reserved opcode (R68). -/
theorem decode_of_reserved {c : CmdWord} (h : 12 ≤ opNumber c) : decode c = .illegal (BitVec.ofNat 4 (opNumber c)) := by
  unfold decode
  rw [fieldOp_toNat, fieldOp_eq_ofNat]
  split
  case h_13 => rfl
  all_goals omega

/-- Settles O5: below 0xC each opcode selects a row of the table, and from 0xC up every word is illegal. -/
theorem decoderIsTotal : Obligations.DecoderIsTotal := by
  refine fun c => ⟨fun h => ?_, decode_of_reserved⟩
  obtain ⟨nop, lute, lutd, enc3, dec4, sopen, swr, sflush, ssusp, sres, sclose, sstat⟩ := operandsAreTheTablesFields c
  interval_cases hop : opNumber c
  · exact ⟨_, nop rfl, rfl⟩
  · exact ⟨_, lute rfl, rfl⟩
  · exact ⟨_, lutd rfl, rfl⟩
  · exact ⟨_, enc3 rfl, rfl⟩
  · exact ⟨_, dec4 rfl, rfl⟩
  · exact ⟨_, sopen rfl, rfl⟩
  · exact ⟨_, swr rfl, rfl⟩
  · exact ⟨_, sflush rfl, rfl⟩
  · exact ⟨_, ssusp rfl, rfl⟩
  · exact ⟨_, sres rfl, rfl⟩
  · exact ⟨_, sclose rfl, rfl⟩
  · exact ⟨_, sstat rfl, rfl⟩

end Sys2Proof.Machine
end

section
/-! A step on a command word is the word's answer (spec/00_scope.md R10); reserved opcodes (spec/30_encoding.md R68). -/

namespace Sys2Proof.Machine

/-- `StepAnswers` is the word's rule as a function of `S` (R10). -/
theorem stepAnswers_iff (c : CmdWord) (s : State) (S' : StreamState) (r : Rsp) :
    StepAnswers c s S' r ↔ answerWord c s.stream = (S', r) := by
  have step_eq (rest : List Input) := step_command (s := { s with inputs := .command c :: rest }) rfl
  simp only [StepAnswers, step_eq, Host.Outcome.next.injEq, State.mk.injEq, List.append_cancel_left_eq, List.cons.injEq,
    and_true, true_and, forall_const, Prod.ext_iff]

/-- The next step gives every command word its answer. -/
theorem stepAnswers_answerWord (c : CmdWord) (s : State) :
    StepAnswers c s (answerWord c s.stream).1 (answerWord c s.stream).2 :=
  (stepAnswers_iff c s _ _).2 rfl

theorem answerWord_of_instr {c : CmdWord} {i : Instr} (h : decode c = .instr i) (S : StreamState) :
    answerWord c S = answer i S := by
  rw [answerWord, h]

/-- A reserved opcode's answer (R68). -/
theorem answerWord_of_reserved {c : CmdWord} (h : 12 ≤ opNumber c) (S : StreamState) :
    answerWord c S = (S, statusOnly .illegal 0 0) := by
  rw [answerWord, decode_of_reserved h]; rfl

/-- Settles O40: the illegal word leaves `S`, so the next word meets the state it would have met. -/
theorem reservedOpcodeIsNotSticky : Obligations.ReservedOpcodeIsNotSticky := by
  intro c s hres
  have illegal := answerWord_of_reserved hres s.stream
  refine ⟨(stepAnswers_iff c s _ _).2 illegal, fun c' rest => ?_⟩
  have afterIllegal := stepAnswers_answerWord c'
    { stream := s.stream, inputs := rest, rsps := s.rsps ++ [statusOnly .illegal 0 0] } rest
  rw [List.append_assoc] at afterIllegal
  exact ⟨_, _, _, (stepAnswers_iff c s _ _).2 illegal (.command c' :: rest), afterIllegal,
    stepAnswers_answerWord c' s rest⟩

end Sys2Proof.Machine
end

section
/-! The bits a command does not read (spec/30_encoding.md R64, R66): words that agree on `readBits` have one answer. -/

namespace Sys2Proof.Machine

/-- Words that agree under a mask agree on every field that the mask covers. -/
theorem extractLsb'_congr_of_and {w : Nat} {c c' m : BitVec w} (h : c &&& m = c' &&& m) {start len : Nat}
    (hm : m.extractLsb' start len = BitVec.allOnes len) : c.extractLsb' start len = c'.extractLsb' start len := by
  simpa [BitVec.extractLsb'_and, hm] using congrArg (BitVec.extractLsb' start len) h

/-- The same of a field written as a quotient. -/
theorem ofNat_div_congr {c c' m : CmdWord} (h : c &&& m = c' &&& m) {start len : Nat}
    (hm : m.extractLsb' start len = BitVec.allOnes len) :
    BitVec.ofNat len (c.toNat / 2 ^ start) = BitVec.ofNat len (c'.toNat / 2 ^ start) := by
  rw [← extractLsb'_eq_ofNat_div, ← extractLsb'_eq_ofNat_div, extractLsb'_congr_of_and h hm]

theorem dataLane_congr {c c' m : CmdWord} (h : c &&& m = c' &&& m) (k : Nat)
    (hm : m.extractLsb' (8 * k) 8 = BitVec.allOnes 8) : dataLane c k = dataLane c' k :=
  ofNat_div_congr h hm

/-- Bits 59:58 of the word are OPT's bits 5:4, the only ones the alphabet depends on (R66, R100). -/
theorem alphaSel_optOf_congr {c c' m : CmdWord} (h : c &&& m = c' &&& m)
    (hm : m.extractLsb' 58 2 = BitVec.allOnes 2) : alphaSel (optOf c) = alphaSel (optOf c') := by
  have bits := congrArg BitVec.toNat (ofNat_div_congr h hm)
  apply alphaSel_congr
  simp only [optOf, BitVec.toNat_ofNat] at bits ⊢
  omega

/-- Words of one opcode that agree on the bits its command reads have one answer in every state (R64). -/
theorem answerWord_congr {c c' : CmdWord} (hop : opNumber c = opNumber c')
    (h : c &&& readBits (opNumber c) = c' &&& readBits (opNumber c)) (S : StreamState) :
    answerWord c S = answerWord c' S := by
  by_cases hres : 12 ≤ opNumber c
  · rw [answerWord_of_reserved hres, answerWord_of_reserved (hop ▸ hres)]
  obtain ⟨nop, lute, lutd, enc3, dec4, sopen, swr, sflush, ssusp, sres, sclose, sstat⟩ := operandsAreTheTablesFields c
  obtain ⟨nop', lute', lutd', enc3', dec4', sopen', swr', sflush', ssusp', sres', sclose', sstat'⟩ :=
    operandsAreTheTablesFields c'
  rw [← hop] at nop' lute' lutd' enc3' dec4' sopen' swr' sflush' ssusp' sres' sclose' sstat'
  have answer_eq {i i' : Instr} (hi : decode c = .instr i) (hi' : decode c' = .instr i') (e : answer i S = answer i' S) :
      answerWord c S = answerWord c' S := by
    rw [answerWord_of_instr hi, answerWord_of_instr hi', e]
  interval_cases hn : opNumber c
  · exact answer_eq (nop rfl) (nop' rfl) rfl
  · refine answer_eq (lute rfl) (lute' rfl) ?_
    have index : BitVec.ofNat 6 c.toNat = BitVec.ofNat 6 c'.toNat := by
      simpa using ofNat_div_congr (start := 0) (len := 6) h (by decide)
    rw [answer, answer, alphaSel_optOf_congr h (by decide), index]
  · refine answer_eq (lutd rfl) (lutd' rfl) ?_
    rw [answer, answer, alphaSel_optOf_congr h (by decide), dataLane_congr h 0 (by decide)]
  · refine answer_eq (enc3 rfl) (enc3' rfl) ?_
    rw [answer, answer, alphaSel_optOf_congr h (by decide), ofNat_div_congr h (by decide),
      dataLane_congr h 0 (by decide), dataLane_congr h 1 (by decide), dataLane_congr h 2 (by decide)]
  · refine answer_eq (dec4 rfl) (dec4' rfl) ?_
    rw [answer, answer, alphaSel_optOf_congr h (by decide), dataLane_congr h 0 (by decide),
      dataLane_congr h 1 (by decide), dataLane_congr h 2 (by decide), dataLane_congr h 3 (by decide)]
  · refine answer_eq (sopen rfl) (sopen' rfl) ?_
    rw [optOf, optOf, ofNat_div_congr h (by decide)]
  · refine answer_eq (swr rfl) (swr' rfl) ?_
    rw [dataLane_congr h 0 (by decide)]
  · exact answer_eq (sflush rfl) (sflush' rfl) rfl
  · exact answer_eq (ssusp rfl) (ssusp' rfl) rfl
  · exact answer_eq (sres rfl) (sres' rfl) rfl
  · exact answer_eq (sclose rfl) (sclose' rfl) rfl
  · exact answer_eq (sstat rfl) (sstat' rfl) rfl

/-- Settles O8: the operands that enter the answer are read from `readBits` alone. -/
theorem onlyReadBitsMatter : Obligations.OnlyReadBitsMatter := fun c c' hop h s =>
  ⟨_, _, stepAnswers_answerWord c s, (stepAnswers_iff c' s _ _).2 (answerWord_congr hop h s.stream).symm⟩

end Sys2Proof.Machine
end

section
/-! The lengths of the responses (spec/30_encoding.md R73). -/

namespace Sys2Proof.Machine

theorem enc3to4_rlen (a : Alphabet) (b0 b1 b2 : Byte) (n : BitVec 2) :
    (emit (enc3to4 a b0 b1 b2 n)).rlen.toNat = if n = 0 then 0 else 4 := by
  rw [emit_rlen, enc3to4_length]
  split <;> rfl

theorem dec4to3_rlen_mem (a : Alphabet) (s0 s1 s2 s3 : Byte) :
    (emit (dec4to3 a s0 s1 s2 s3)).rlen.toNat ∈ [1, 2, 3] := by
  rw [emit_rlen, dec4to3_length]
  split
  · decide
  · split <;> decide

/-- R73's rows of an SWR that is not suspended, in the encode direction. -/
theorem okLengths_swr_encode {S : StreamState} (hs : S.susp = false) (he : S.encodes = true) (b : Byte) :
    okLengths S (.instr (.swr b)) = if optBreakLines S.opt then [0, 4, 5] else [0, 4] := by
  simp [okLengths, hs, he]

/-- R73's row of an SWR that is not suspended, in the decode direction. -/
theorem okLengths_swr_decode {S : StreamState} (hs : S.susp = false) (he : S.encodes = false) (b : Byte) :
    okLengths S (.instr (.swr b)) = [0, 1, 2, 3] := by
  simp [okLengths, hs, he]

theorem StatelessCase.rstat_eq_ok {i : Instr} {r : Rsp} (h : StatelessCase i r) : r.rstat = .ok := by
  cases h <;> rfl

theorem FlushCase.rstat_eq_ok {S S' : StreamState} {r : Rsp} (h : FlushCase S S' r) : r.rstat = .ok := by
  cases h <;> rfl

theorem GateCase.ne_ok {f : Fsm} {st : Status} (h : GateCase f st) : st ≠ .ok := by
  cases h <;> decide

theorem StatelessCase.rlen_mem {i : Instr} {r : Rsp} (h : StatelessCase i r) (S : StreamState) :
    r.rlen.toNat ∈ okLengths S (.instr i) := by
  cases h with
  | nop => exact List.mem_singleton.2 rfl
  | lute opt index => exact List.mem_singleton.2 rfl
  | lutd opt b => exact List.mem_singleton.2 rfl
  | enc3 opt cnt b0 b1 b2 => rw [enc3to4_rlen, okLengths]; split <;> simp
  | dec4 opt s0 s1 s2 s3 => exact dec4to3_rlen_mem _ _ _ _ _

/-- An OK SWR: 1 when suspended, a quantum or nothing when encoding, the newline only with line breaks, at most a quantum's
bytes when decoding (R154 to R158). -/
theorem SwrCase.rlen_mem {b : Byte} {S S' : StreamState} {r : Rsp} (h : SwrCase b S S' r) (hok : r.rstat = .ok) :
    r.rlen.toNat ∈ okLengths S (.instr (.swr b)) := by
  cases h with
  | suspended hs => simp [okLengths, hs]
  | buffered hs he _ => rw [okLengths_swr_encode hs he]; split <;> simp
  | encodedWithNewline hs he _ hbrk _ =>
    rw [okLengths_swr_encode hs he, if_pos hbrk, emit_rlen, List.length_append, completedQuantum, enc3to4_length]
    decide
  | encoded hs he _ _ =>
    rw [okLengths_swr_encode hs he, completedQuantum, enc3to4_rlen]
    split <;> decide
  | symbolBuffered hs he _ _ => simp [okLengths_swr_decode hs he]
  | decoded hs he _ _ =>
    rw [okLengths_swr_decode hs he]
    exact List.mem_cons_of_mem 0 (dec4to3_rlen_mem _ _ _ _ _)
  | space hs he _ => simp [okLengths_swr_decode hs he]
  | invalid _ _ _ => cases hok

/-- A flush with an OK response gives nothing or, when encoding, one padded quantum (R161). -/
theorem FlushCase.rlen_mem {S S' : StreamState} {r : Rsp} (h : FlushCase S S' r) :
    r.rlen.toNat ∈ if S.encodes then [0, 4] else [0] := by
  cases h with
  | nothing _ => split <;> simp
  | padded hn he => rw [StreamState.encodePending, enc3to4_rlen, if_neg hn]; simp [he]

/-- R73's table, on everything a command can do. -/
theorem CommandCase.rlen_mem {cmd : Command} {S S' : StreamState} {r : Rsp} (h : CommandCase cmd S S' r)
    (hok : r.rstat = .ok) : r.rlen.toNat ∈ okLengths S cmd := by
  cases h with
  | illegal op => cases hok
  | stateless _ hr => exact hr.rlen_mem S
  | sopen opt => exact List.mem_singleton.2 rfl
  | sstat => exact List.mem_singleton.2 rfl
  | gated _ hst => exact absurd hok hst.ne_ok
  | swr _ hr => exact hr.rlen_mem hok
  | sres _ => exact List.mem_singleton.2 rfl
  | sflush _ hr => exact hr.rlen_mem
  | ssusp _ hr => exact hr.rlen_mem
  | sclose _ hr => exact hr.rlen_mem
  | badPadding _ _ _ _ => cases hok

/-- A status that is not OK comes with no bytes (R231). -/
theorem CommandCase.rlen_eq_zero {cmd : Command} {S S' : StreamState} {r : Rsp} (h : CommandCase cmd S S' r)
    (hfail : r.rstat ≠ .ok) : r.rlen = 0 := by
  cases h with
  | illegal op => rfl
  | stateless _ hr => exact absurd hr.rstat_eq_ok hfail
  | sopen opt => rfl
  | sstat => exact absurd rfl hfail
  | gated _ _ => rfl
  | swr _ hr =>
    cases hr with
    | invalid _ _ _ => rfl
    | _ => exact absurd rfl hfail
  | sres _ => rfl
  | sflush _ hr => exact absurd hr.rstat_eq_ok hfail
  | ssusp _ hr => exact absurd hr.rstat_eq_ok hfail
  | sclose _ hr => exact absurd hr.rstat_eq_ok hfail
  | badPadding _ _ _ _ => rfl

/-- Settles O38: every word's answer is one of the listed cases, and each has a length of its row. -/
theorem responseLengthsFollowTable : Obligations.ResponseLengthsFollowTable := fun c s =>
  ⟨_, _, stepAnswers_answerWord c s, (answerWord_case c s.stream).rlen_mem, (answerWord_case c s.stream).rlen_eq_zero⟩

end Sys2Proof.Machine
end

section
/-! The encode ROMs by runs of character codes, and what they have in common (spec/40_lut.md R101 to R103). -/

namespace Sys2Proof.Machine

/-- R101's runs: `A`..`Z`, `a`..`z`, `0`..`9`, `+`, `/`. -/
theorem encRom_standard_toNat (i : BitVec 6) : (encRom .standard i).toNat =
    if i.toNat < 26 then 0x41 + i.toNat
    else if i.toNat < 52 then 0x61 + (i.toNat - 26)
    else if i.toNat < 62 then 0x30 + (i.toNat - 52)
    else if i.toNat = 62 then 0x2B else 0x2F := by
  revert i; decide

/-- R102: the Standard alphabet but for the values 62 and 63. -/
theorem encRom_urlSafe_toNat (i : BitVec 6) : (encRom .urlSafe i).toNat =
    if i.toNat = 62 then 0x2D else if i.toNat = 63 then 0x5F else (encRom .standard i).toNat := by
  revert i; decide

/-- R103's runs: `-`, `0`..`9`, `A`..`Z`, `_`, `a`..`z`. -/
theorem encRom_ordered_toNat (i : BitVec 6) : (encRom .ordered i).toNat =
    if i.toNat = 0 then 0x2D
    else if i.toNat < 11 then 0x30 + (i.toNat - 1)
    else if i.toNat < 37 then 0x41 + (i.toNat - 11)
    else if i.toNat = 37 then 0x5F
    else 0x61 + (i.toNat - 38) := by
  revert i; decide

/-- The runs of R103 follow each other in the order of the character codes (R110 (d)). -/
theorem encRom_ordered_strictMono {i j : BitVec 6} (h : i.toNat < j.toNat) :
    (encRom .ordered i).toNat < (encRom .ordered j).toNat := by
  rw [encRom_ordered_toNat, encRom_ordered_toNat]
  split_ifs <;> omega

theorem encRom_toNat_lt (a : Alphabet) (i : BitVec 6) : (encRom a i).toNat < 128 := by
  revert i; cases a <;> decide

/-- The decode ROM is a left inverse (R110 (a)), so the encode ROM is injective (R110 (b)). -/
theorem encRom_injective (a : Alphabet) : Function.Injective (encRom a) := by
  intro i j h
  have values : i.setWidth 8 = j.setWidth 8 := by rw [← decRom_encRom a i, ← decRom_encRom a j, h]
  simpa using congrArg (BitVec.setWidth 6) values

/-- Tab, LF, CR and space have class WS in all three alphabets (R110 (c)). -/
theorem byteClass_whitespace (a : Alphabet) {b : Byte} (h : b ∈ ([0x09, 0x0A, 0x0D, 0x20] : List Byte)) :
    byteClass a b = .ws := by
  revert b; cases a <;> decide

/-- A symbol has class DATA, which neither `=` nor a whitespace byte has. -/
theorem encRom_not_mem_pad_whitespace (a : Alphabet) (i : BitVec 6) :
    encRom a i ∉ ([0x3D, 0x09, 0x0A, 0x0D, 0x20] : List Byte) := by
  intro h
  rcases List.mem_cons.1 h with pad | space
  · exact encRom_ne_padChar a i pad
  · exact absurd ((byteClass_encRom a i).symm.trans (byteClass_whitespace a space)) (by decide)

/-- Settles O2: the tables are their runs of codes; distinctness comes from the decode ROM's inverting them. -/
theorem encodeRomContents : Obligations.EncodeRomContents :=
  ⟨encRom_standard_toNat, encRom_urlSafe_toNat, encRom_ordered_toNat, fun a i _ =>
    ⟨encRom_toNat_lt a i, fun h => encRom_injective a h, encRom_not_mem_pad_whitespace a i⟩⟩

end Sys2Proof.Machine
end

section
/-! The decode ROMs from the encode ROMs, and the symbol classes (spec/40_lut.md R105, R106, R110). -/

namespace Sys2Proof.Machine

/-- A value in a decode ROM stands at its own symbol: the converse of `decRom_encRom` (R106, first case). -/
theorem encRom_decRom (a : Alphabet) (b : Byte) (h : (decRom a b).toNat < 64) :
    encRom a ((decRom a b).setWidth 6) = b := by
  revert b; cases a <;> decide

/-- A byte that is no symbol of the alphabet has no value for its entry, and so reads the sentinel R106 gives it. -/
theorem decRom_of_not_symbol {a : Alphabet} {b : Byte} (h : ∀ i, encRom a i ≠ b) :
    decRom a b =
      if b = 0x09 ∨ b = 0x0A ∨ b = 0x0D ∨ b = 0x20 then 0xFB else if b = 0x3D then 0xFF else 0xF7 := by
  have noValue : ¬ (decRom a b).toNat < 64 := fun value => h _ (encRom_decRom a b value)
  clear h
  revert b; cases a <;> decide

/-- From 0x80 up there is no symbol, no whitespace byte and no `=` (R106). -/
theorem decRom_of_ge_128 (a : Alphabet) {b : Byte} (h : 128 ≤ b.toNat) : decRom a b = 0xF7 := by
  have noSymbol : ∀ i, encRom a i ≠ b := by
    rintro i rfl
    exact absurd (encRom_toNat_lt a i) (Nat.not_lt.2 h)
  have ne_small (c : Byte) (hc : c.toNat < 128) : b ≠ c := by
    rintro rfl
    omega
  rw [decRom_of_not_symbol noSymbol, if_neg, if_neg (ne_small 0x3D (by decide))]
  simp [ne_small]

/-- Settles O3: a symbol's entry is its value, every other byte's entry is its sentinel. -/
theorem decodeRomConstruction : Obligations.DecodeRomConstruction := by
  refine fun a b => ⟨?_, decRom_of_not_symbol, decRom_of_ge_128 a⟩
  rintro i rfl
  exact decRom_encRom a i

/-- R105 on numbers: bits 7:6 of an entry are 0 just below 64. -/
theorem classOf_eq (e : Byte) : classOf e =
    if e.toNat < 64 then .data else if e.toNat = 0xFB then .ws else if e.toNat = 0xFF then .pad else .invalid := by
  have value : e.extractLsb' 6 2 = 0 ↔ e.toNat < 64 := by
    rw [extractLsb'_eq_ofNat_div]
    bv_omega
  have space : e = Config.wsCode ↔ e.toNat = 0xFB := BitVec.toNat_inj.symm
  have pad : e = Config.padCode ↔ e.toNat = 0xFF := BitVec.toNat_inj.symm
  simp only [classOf, value, space, pad]

/-- R110 (c): how many of the 256 bytes have each class. -/
theorem byteClass_count (a : Alphabet) (c : SymClass) :
    ((List.range 256).filter fun n => byteClass a (BitVec.ofNat 8 n) = c).length =
      match c with
      | .data => 64
      | .ws => 4
      | .pad => 1
      | .invalid => 187 := by
  cases a <;> cases c <;> rfl

/-- Settles O4: the classes on numbers, the ROMs as inverses, each class's count, and the Ordered runs' order. -/
theorem romProperties : Obligations.RomProperties := by
  refine ⟨classOf_eq, decRom_of_invalid, decRom_encRom, fun a _ _ h => encRom_injective a h, fun a => ?_,
    fun _ _ => encRom_ordered_strictMono⟩
  exact ⟨byteClass_count a .data, byteClass_count a .ws, byteClass_count a .pad, byteClass_count a .invalid,
    byteClass_whitespace a (by decide), byteClass_whitespace a (by decide), byteClass_whitespace a (by decide),
    byteClass_whitespace a (by decide), byteClass_padChar a⟩

end Sys2Proof.Machine
end

section
/-! The lookup commands answer one ROM entry (spec/40_lut.md R111, R112, spec/30_encoding.md R72). -/

namespace Sys2Proof.Machine

/-- The packed lanes are the sum of the bytes by their places (R44, R72). -/
theorem packLanes_eq_laneSum (bs : List Byte) : packLanes bs = BitVec.ofNat 64 (laneSum (bs.map BitVec.toNat)) := by
  induction bs with
  | nil => rfl
  | cons b bs ih =>
    have disjoint : (packLanes bs <<< 8) &&& b.setWidth 64 = 0 := by
      ext k hk
      by_cases low : k < 8
      · simp [low]
      · simp [BitVec.getLsbD_of_ge b k (by omega)]
    apply BitVec.eq_of_toNat_eq
    rw [packLanes_cons, ← BitVec.add_eq_or_of_and_eq_zero _ _ disjoint, ih]
    have hb : b.toNat < 256 := b.isLt
    simp only [List.map_cons, laneSum, BitVec.toNat_add, BitVec.toNat_shiftLeft, BitVec.toNat_ofNat,
      BitVec.toNat_setWidth, Nat.shiftLeft_eq]
    omega

/-- The statements' OK response is the machine's. -/
theorem okBytes_map_toNat (bs : List Byte) : okBytes (bs.map BitVec.toNat) = emit bs := by
  rw [okBytes, emit, List.length_map, packLanes_eq_laneSum]

/-- LUTE (R111). -/
theorem answers_lute (opt : Options) (i : BitVec 6) (s : State) :
    Answers (.lute opt i) s s.stream (okBytes [(encRom (alphaSel opt) i).toNat]) :=
  (answers_iff _ _ _ _).2 (congrArg (Prod.mk s.stream) (okBytes_map_toNat [_]).symm)

/-- LUTD (R112). -/
theorem answers_lutd (opt : Options) (b : Byte) (s : State) :
    Answers (.lutd opt b) s s.stream (okBytes [(decRom (alphaSel opt) b).toNat]) :=
  (answers_iff _ _ _ _).2 (congrArg (Prod.mk s.stream) (okBytes_map_toNat [_]).symm)

/-- Settles O11: LUTE's answer, the decoder's row, and the example as an instance of the answer. -/
theorem luteReturnsEncodeEntry : Obligations.LuteReturnsEncodeEntry := by
  refine ⟨answers_lute, fun c => ?_, answers_lute 0x10 62⟩
  obtain ⟨_, lute, _⟩ := operandsAreTheTablesFields c
  exact lute

/-- Settles O12: LUTD's answer, the decoder's row, 0xF7 from 0x80 by the ROM, and the examples as instances. -/
theorem lutdReturnsRawEntry : Obligations.LutdReturnsRawEntry := by
  refine ⟨answers_lutd, fun c => ?_, fun opt b s hb => ?_,
    fun s => ⟨answers_lutd 0x00 0x3D s, answers_lutd 0x00 0x09 s⟩⟩
  · obtain ⟨_, _, lutd, _⟩ := operandsAreTheTablesFields c
    exact lutd
  · simpa [decRom_of_ge_128 (alphaSel opt) hb] using answers_lutd opt b s

end Sys2Proof.Machine
end

section
/-! The non-stream commands: one answer for every stream state (spec/41_quantum.md R140, R141). -/

namespace Sys2Proof.Machine

/-- A non-stream command's rule does not read `S` and leaves it (R141). -/
theorem StatelessCase.answers_same_stream {i : Instr} {r : Rsp} (h : StatelessCase i r) (s : State) :
    Answers i s s.stream r := by
  rw [answers_iff]
  cases h <;> rfl

theorem exists_statelessCase {i : Instr} (h : isNonStream i = true) : ∃ r, StatelessCase i r := by
  cases i with
  | nop => exact ⟨_, .nop⟩
  | lute opt index => exact ⟨_, .lute opt index⟩
  | lutd opt b => exact ⟨_, .lutd opt b⟩
  | enc3 opt cnt b0 b1 b2 => exact ⟨_, .enc3 opt cnt b0 b1 b2⟩
  | dec4 opt s0 s1 s2 s3 => exact ⟨_, .dec4 opt s0 s1 s2 s3⟩
  | _ => cases h

/-- An answer is the whole of what `exec` does, so it names `S` of the next state. -/
theorem Answers.stream_eq {i : Instr} {s t : State} {S' : StreamState} {r : Rsp} (h : Answers i s S' r)
    (ht : exec i s = .next t) : t.stream = S' := by
  rw [h] at ht
  exact congrArg State.stream (Host.Outcome.next.inj ht).symm

/-- Every command answers as its rule on `S` says. -/
theorem answers_answer (i : Instr) (s : State) : Answers i s (answer i s.stream).1 (answer i s.stream).2 :=
  (answers_iff _ _ _ _).2 rfl

/-- Settles O10: the empty answer, and the decoder's row for OP 0, which the zero word has. -/
theorem nopAnswersOk : Obligations.NopAnswersOk := by
  have row (c : CmdWord) : opNumber c = 0x0 → decode c = .instr .nop := by
    obtain ⟨nop, _⟩ := operandsAreTheTablesFields c
    exact nop
  exact ⟨StatelessCase.nop.answers_same_stream, row, row 0 (by decide)⟩

/-- Settles O17: the next state has the same `S`, and `S` is all that a later command's answer depends on. -/
theorem nonStreamCommandsIgnoreStream : Obligations.NonStreamCommandsIgnoreStream := by
  intro i hi
  obtain ⟨r, hr⟩ := exists_statelessCase hi
  refine ⟨r, hr.rstat_eq_ok, fun s => ⟨hr.answers_same_stream s, fun t ht j => ?_⟩⟩
  have sameStream : t.stream = s.stream := (hr.answers_same_stream s).stream_eq ht
  have later := answers_answer j t
  rw [sameStream] at later
  exact ⟨_, _, answers_answer j s, later⟩

end Sys2Proof.Machine
end

section
/-! The two conversion functions on numbers, and ENC3 and DEC4 by them (spec/41_quantum.md R130 to R139). -/

namespace Sys2Proof.Machine

/-- A byte at its place in a word that has room for it. -/
theorem toNat_setWidth_shiftLeft {w k : Nat} (b : Byte) (h : 8 + k ≤ w) :
    (b.setWidth w <<< k).toNat = b.toNat * 2 ^ k := by
  have fits : b.toNat * 2 ^ k < 2 ^ w :=
    calc b.toNat * 2 ^ k < 2 ^ 8 * 2 ^ k := Nat.mul_lt_mul_of_pos_right b.isLt (Nat.two_pow_pos k)
      _ = 2 ^ (8 + k) := (Nat.pow_add 2 8 k).symm
      _ ≤ 2 ^ w := Nat.pow_le_pow_right (by decide) h
  rw [BitVec.toNat_shiftLeft, BitVec.toNat_setWidth_of_le (by omega), Nat.shiftLeft_eq, Nat.mod_eq_of_lt fits]

/-- The 24-bit group as a number: its lanes do not overlap, so ORing them adds them (R43). -/
theorem join3_toNat (b2 b1 b0 : Byte) :
    (join3 b2 b1 b0).toNat = b2.toNat * 2 ^ 16 + b1.toNat * 2 ^ 8 + b0.toNat := by
  have h0 : b0.toNat < 2 ^ 8 := b0.isLt
  have h1 : b1.toNat < 2 ^ 8 := b1.isLt
  have low : b1.toNat * 2 ^ 8 ||| b0.toNat = b1.toNat * 2 ^ 8 + b0.toNat := by
    rw [← Nat.shiftLeft_eq, Nat.shiftLeft_add_eq_or_of_lt h0]
  have high : b2.toNat * 2 ^ 16 ||| (b1.toNat * 2 ^ 8 + b0.toNat) =
      b2.toNat * 2 ^ 16 + (b1.toNat * 2 ^ 8 + b0.toNat) := by
    rw [← Nat.shiftLeft_eq b2.toNat, Nat.shiftLeft_add_eq_or_of_lt (by omega)]
  rw [join3, BitVec.toNat_or, BitVec.toNat_or, toNat_setWidth_shiftLeft b2 (by decide),
    toNat_setWidth_shiftLeft b1 (by decide), BitVec.toNat_setWidth_of_le (by decide), Nat.or_assoc, low, high, Nat.add_assoc]

/-- A byte cut out of a word, as a number. -/
theorem toNat_extractLsb'_byte {w : Nat} (v : BitVec w) (start : Nat) :
    (v.extractLsb' start 8).toNat = v.toNat / 2 ^ start % 256 := by
  rw [extractLsb'_eq_ofNat_div, BitVec.toNat_ofNat]

/-- `Enc3to4` on numbers, count by count (R130, R131). -/
theorem enc3to4_map_toNat (a : Alphabet) (b0 b1 b2 : Byte) {n : BitVec 2} (hn : n ≠ 0) :
    (enc3to4 a b0 b1 b2 n).map BitVec.toNat = quantumSymbols a b0.toNat b1.toNat b2.toNat n.toNat := by
  have counts : ∀ m : BitVec 2, m ≠ 0 → m = 1 ∨ m = 2 ∨ m = 3 := by decide
  rcases counts n hn with rfl | rfl | rfl <;>
    simp [enc3to4, quantumSymbols, extractLsb'_eq_ofNat_div, join3_toNat, Config.padChar]

/-- `Dec4to3` on numbers: the same three paths, and no raw entry leaves the 32-bit word it is shifted in (R134 to R137). -/
theorem dec4to3_map_toNat (a : Alphabet) (s0 s1 s2 s3 : Byte) :
    (dec4to3 a s0 s1 s2 s3).map BitVec.toNat = quantumBytes a s0 s1 s2 s3 := by
  have isPad (s : Byte) : s.toNat = 0x3D ↔ s = Config.padChar := BitVec.toNat_inj (y := Config.padChar)
  have e0 : (rawEntry a s0 <<< 18).toNat = (decRom a s0).toNat * 2 ^ 18 := toNat_setWidth_shiftLeft _ (by decide)
  have e1 : (rawEntry a s1 <<< 12).toNat = (decRom a s1).toNat * 2 ^ 12 := toNat_setWidth_shiftLeft _ (by decide)
  have e2 : (rawEntry a s2 <<< 6).toNat = (decRom a s2).toNat * 2 ^ 6 := toNat_setWidth_shiftLeft _ (by decide)
  have e3 : (rawEntry a s3).toNat = (decRom a s3).toNat := BitVec.toNat_setWidth_of_le (by decide)
  simp only [dec4to3, quantumBytes, isPad]
  split_ifs
  · simp only [path1, List.map, toNat_extractLsb'_byte, BitVec.toNat_or, e0, e1]
  · simp only [path2, List.map, toNat_extractLsb'_byte, BitVec.toNat_or, e0, e1, e2]
  · simp only [path3, List.map, toNat_extractLsb'_byte, BitVec.toNat_or, e0, e1, e2, e3, Nat.pow_zero, Nat.div_one]

/-- ENC3 (R132, R133). -/
theorem answers_enc3 (opt : Options) (cnt : BitVec 2) (b0 b1 b2 : Byte) (s : State) :
    Answers (.enc3 opt cnt b0 b1 b2) s s.stream
      (okBytes (if cnt = 0 then [] else quantumSymbols (alphaSel opt) b0.toNat b1.toNat b2.toNat cnt.toNat)) := by
  have emitted := (StatelessCase.enc3 opt cnt b0 b1 b2).answers_same_stream s
  rw [← okBytes_map_toNat] at emitted
  split_ifs with h
  · subst h; exact emitted
  · rwa [enc3to4_map_toNat _ _ _ _ h] at emitted

/-- DEC4 (R139). -/
theorem answers_dec4 (opt : Options) (s0 s1 s2 s3 : Byte) (s : State) :
    Answers (.dec4 opt s0 s1 s2 s3) s s.stream (okBytes (quantumBytes (alphaSel opt) s0 s1 s2 s3)) := by
  rw [← dec4to3_map_toNat, okBytes_map_toNat]
  exact (StatelessCase.dec4 opt s0 s1 s2 s3).answers_same_stream s

/-- Settles O13: ENC3's answer, the decoder's row, and the example as an instance of the answer. -/
theorem enc3EncodesQuantum : Obligations.Enc3EncodesQuantum := by
  refine ⟨answers_enc3, fun c => ?_, answers_enc3 0x00 3 0x4D 0x61 0x6E⟩
  obtain ⟨_, _, _, enc3, _⟩ := operandsAreTheTablesFields c
  exact enc3

/-- Settles O14: DEC4's answer, the decoder's row, and the examples as instances, two of them with an INVALID byte. -/
theorem dec4DecodesQuantum : Obligations.Dec4DecodesQuantum := by
  refine ⟨answers_dec4, fun c => ?_, fun s =>
    ⟨answers_dec4 0x00 0x54 0x57 0x46 0x75 s, answers_dec4 0x00 0x54 0x57 0x00 0x75 s,
      answers_dec4 0x00 0x54 0x57 0x80 0x75 s, answers_dec4 0x00 0x3D 0x3D 0x3D 0x3D s⟩⟩
  obtain ⟨_, _, _, _, dec4, _⟩ := operandsAreTheTablesFields c
  exact dec4

end Sys2Proof.Machine
end

section
/-! The answer of a command is the case it meets, and that case alone; the gate (spec/42_stream.md R151), SOPEN and SRES. -/

namespace Sys2Proof.Machine

theorem swrBody_of_encodes {S : StreamState} (hs : S.susp = false) (he : S.encodes = true) (b : Byte) :
    swrBody b S = swrEncode b S := by
  simp [swrBody, hs, he]

theorem swrBody_of_decodes {S : StreamState} (hs : S.susp = false) (he : S.encodes = false) (b : Byte) :
    swrBody b S = swrDecode b S := by
  simp [swrBody, hs, he]

theorem swrDecode_of_isSymbol {S : StreamState} {b : Byte} (hb : S.isSymbol b) :
    swrDecode b S = swrDecodeSymbol b S := by
  rcases hb with hc | hc <;> rw [swrDecode, hc]

/-- SWR's cases exclude each other: the body does what the case whose guards hold says (R153 to R159). -/
theorem SwrCase.swrBody_eq {b : Byte} {S S' : StreamState} {r : Rsp} (h : SwrCase b S S' r) :
    swrBody b S = (S', r) := by
  cases h with
  | suspended hs => exact if_pos hs
  | buffered hs he h3 => exact (swrBody_of_encodes hs he b).trans (if_pos h3)
  | encodedWithNewline hs he h3 hbrk hline =>
    have full := (lineFull_after_quantum S b).2 ⟨hbrk, hline⟩
    exact (swrBody_of_encodes hs he b).trans ((if_neg h3).trans (if_pos full))
  | encoded hs he h3 hnot =>
    have notFull := mt (lineFull_after_quantum S b).1 hnot
    exact (swrBody_of_encodes hs he b).trans ((if_neg h3).trans (if_neg notFull))
  | symbolBuffered hs he hb h3 => rw [swrBody_of_decodes hs he, swrDecode_of_isSymbol hb, swrDecodeSymbol, if_pos h3]
  | decoded hs he hb h3 => rw [swrBody_of_decodes hs he, swrDecode_of_isSymbol hb, swrDecodeSymbol, if_neg h3]
  | space hs he hc => rw [swrBody_of_decodes hs he, swrDecode, hc, swrDecodeSpace]
  | invalid hs he hc => rw [swrBody_of_decodes hs he, swrDecode, hc, swrDecodeInvalid]

theorem FlushCase.flush_eq {S S' : StreamState} {r : Rsp} (h : FlushCase S S' r) : flush S = (S', r) := by
  cases h with
  | nothing h0 => exact if_pos h0
  | padded h0 he => exact (if_neg h0).trans (if_pos he)

/-- In the decode direction pending symbols fail the flush (R161). -/
theorem flush_eq_badPadding {S : StreamState} (h0 : S.bufcnt ≠ 0) (he : S.encodes = false) :
    flush S = (S.enterFailed, raise .badPadding 0 S.pos) :=
  (if_neg h0).trans (if_neg (by simp [he]))

/-- A command's cases exclude each other: what a case lists is the command's answer. -/
theorem CommandCase.answer_eq {i : Instr} {S S' : StreamState} {r : Rsp} (h : CommandCase (.instr i) S S' r) :
    answer i S = (S', r) := by
  cases h with
  | stateless _ hr => cases hr <;> rfl
  | sopen opt => rfl
  | sstat => rfl
  | gated hi hst => cases hi <;> exact gatedAnswer_of_gateCase hst _
  | swr ho hr => exact (gatedAnswer_of_opened ho _).trans hr.swrBody_eq
  | sres ho => exact gatedAnswer_of_opened ho _
  | sflush ho hr => exact (gatedAnswer_of_opened ho _).trans hr.flush_eq
  | ssusp ho hr => rw [answer, gatedAnswer_of_opened ho, ssuspBody, hr.flush_eq, thenIfOk_of_ok hr.rstat_eq_ok]
  | sclose ho hr => rw [answer, gatedAnswer_of_opened ho, scloseBody, hr.flush_eq, thenIfOk_of_ok hr.rstat_eq_ok]
  | badPadding hi ho h0 he =>
    have failed := flush_eq_badPadding h0 he
    rcases hi with rfl | rfl | rfl
    · exact (gatedAnswer_of_opened ho _).trans failed
    · rw [answer, gatedAnswer_of_opened ho, ssuspBody, failed, thenIfOk_of_not_ok (by simp)]
    · rw [answer, gatedAnswer_of_opened ho, scloseBody, failed, thenIfOk_of_not_ok (by simp)]

/-- A command answers with each case whose guards hold. -/
theorem CommandCase.answers {i : Instr} {s : State} {S' : StreamState} {r : Rsp}
    (h : CommandCase (.instr i) s.stream S' r) : Answers i s S' r :=
  (answers_iff i s S' r).2 h.answer_eq

theorem gatedInstr_of_isGated {i : Instr} (h : isGated i = true) : GatedInstr i := by
  cases i with
  | swr b => exact .swr b
  | sflush => exact .sflush
  | ssusp => exact .ssusp
  | sres => exact .sres
  | sclose => exact .sclose
  | _ => cases h

/-- Each state that is not OPEN has its row in the gate (R151). -/
theorem GatedInstr.gateStops {i : Instr} (hi : GatedInstr i) (s : State) : GateStops i s := by
  have stops {st : Status} (h : GateCase s.stream.fsm st) : Answers i s s.stream (statusOnly st 0 0) :=
    (CommandCase.gated hi h).answers
  refine ⟨fun h => stops ?_, fun h => stops ?_, fun h => stops ?_⟩ <;> rw [h]
  exacts [.idle, .closed, .failed]

/-- Settles O19: the gate's rows, and the answers of the two stream commands without a gate. -/
theorem gateStopsOutsideOpen : Obligations.GateStopsOutsideOpen :=
  ⟨fun _ s hi => (gatedInstr_of_isGated hi).gateStops s, fun opt s => ⟨_, _, answers_sopen opt s, rfl⟩,
    fun s => ⟨_, (CommandCase.sstat s.stream).answers, rfl⟩⟩

/-- Settles O18: SOPEN's answer, the decoder's row, and the example word. -/
theorem sopenOpensFreshStream : Obligations.SopenOpensFreshStream := by
  refine ⟨answers_sopen, fun c => ?_, by decide⟩
  obtain ⟨_, _, _, _, _, sopen, _⟩ := operandsAreTheTablesFields c
  exact sopen

/-- Settles O27: the gate, and SRES's one case in OPEN. -/
theorem sresResumes : Obligations.SresResumes := fun s =>
  ⟨GatedInstr.sres.gateStops s, fun ho => (CommandCase.sres ho).answers⟩

end Sys2Proof.Machine
end

section
/-! The flushing commands in OPEN (spec/42_stream.md R161 to R165). -/

namespace Sys2Proof.Machine

/-- The padded quantum of a flush, its symbols as the statements write them (R43, R130, R161). -/
theorem FlushCase.padded_symbols {S : StreamState} (h0 : S.bufcnt ≠ 0) (he : S.encodes = true) :
    FlushCase S S.clearBuf (okBytes (quantumSymbols (alphaSel S.opt) (lane S.buf 0).toNat (lane S.buf 1).toNat
      (lane S.buf 2).toNat S.bufcnt.toNat)) := by
  rw [← enc3to4_map_toNat _ _ _ _ h0, okBytes_map_toNat]
  exact .padded h0 he

/-- Settles O25: the gate, and the three cases of the flush. -/
theorem sflushFlushesPartialQuantum : Obligations.SflushFlushesPartialQuantum := fun s =>
  ⟨GatedInstr.sflush.gateStops s, fun ho =>
    ⟨fun h0 => (CommandCase.sflush ho (.nothing h0)).answers,
      fun h0 he => (CommandCase.sflush ho (.padded_symbols h0 he)).answers,
      fun h0 he => (CommandCase.badPadding (.inl rfl) ho h0 he).answers⟩⟩

/-- Settles O26: the gate, and the three cases of the flush; SUSP is set in the two that are OK. -/
theorem ssuspFlushesAndSuspends : Obligations.SsuspFlushesAndSuspends := fun s =>
  ⟨GatedInstr.ssusp.gateStops s, fun ho =>
    ⟨fun h0 => (CommandCase.ssusp ho (.nothing h0)).answers,
      fun h0 he => (CommandCase.ssusp ho (.padded_symbols h0 he)).answers,
      fun h0 he => (CommandCase.badPadding (.inr (.inl rfl)) ho h0 he).answers⟩⟩

/-- Settles O28: the gate, and the three cases of the flush; the stream is closed in the two that are OK. -/
theorem scloseFlushesAndCloses : Obligations.ScloseFlushesAndCloses := fun s =>
  ⟨GatedInstr.sclose.gateStops s, fun ho =>
    ⟨fun h0 => (CommandCase.sclose ho (.nothing h0)).answers,
      fun h0 he => (CommandCase.sclose ho (.padded_symbols h0 he)).answers,
      fun h0 he => (CommandCase.badPadding (.inr (.inr rfl)) ho h0 he).answers⟩⟩

end Sys2Proof.Machine
end

section
/-! SWR in OPEN, direction by direction (spec/42_stream.md R153 to R159). -/

namespace Sys2Proof.Machine

/-- In OPEN, SWR answers with each of its cases whose guards hold. -/
theorem SwrCase.answers {b : Byte} {s : State} {S' : StreamState} {r : Rsp} (h : SwrCase b s.stream S' r)
    (ho : s.stream.fsm = .opened) : Answers (.swr b) s S' r :=
  (CommandCase.swr ho h).answers

/-- Settles O20: the suspended case, its one byte as the statements write it. -/
theorem swrSuspendedPassesByte : Obligations.SwrSuspendedPassesByte := fun b _ ho hs =>
  okBytes_map_toNat [b] ▸ (SwrCase.suspended hs).answers ho

/-- Settles O23: the four bytes have class WS in every alphabet. -/
theorem swrDecodeSpaceIsDiscarded : Obligations.SwrDecodeSpaceIsDiscarded := fun _ s ho hs he hb =>
  (SwrCase.space hs he (byteClass_whitespace s.stream.alphabet hb)).answers ho

/-- Settles O24: the invalid case; the stream it leaves is FAILED, so the gate stops what comes next. -/
theorem swrDecodeInvalidFails : Obligations.SwrDecodeInvalidFails := by
  refine fun b s ho hs he hc => ⟨(SwrCase.invalid hs he hc).answers ho, fun t i ht hi => ?_⟩
  obtain ⟨_, _, stopsInFailed⟩ := (gatedInstr_of_isGated hi).gateStops t
  exact stopsInFailed (by rw [ht])

/-- Settles O22: the two cases of a symbol; a write to the next lane leaves the other lanes. -/
theorem swrDecodeSymbolBuffersAndDecodes : Obligations.SwrDecodeSymbolBuffersAndDecodes := by
  refine fun b s ho hs he hb => ⟨fun h3 => ⟨_, lane_setLane s.stream.buf s.stream.bufcnt b h3, ?_⟩, fun h3 => ?_⟩
  · exact (SwrCase.symbolBuffered hs he hb h3).answers ho
  · rw [← dec4to3_map_toNat, okBytes_map_toNat]
    exact (SwrCase.decoded hs he hb (by omega)).answers ho

/-- With two bytes pending, the quantum that SWR completes is the two and its own byte (R155). -/
theorem completedQuantum_of_two_pending {S : StreamState} (h2 : S.bufcnt.toNat = 2) (b : Byte) :
    (completedQuantum S b).map BitVec.toNat =
      quantumSymbols (alphaSel S.opt) (lane S.buf 0).toNat (lane S.buf 1).toNat b.toNat 3 := by
  have lanes := lane_setLane S.buf S.bufcnt b (by omega)
  rw [completedQuantum, enc3to4_map_toNat _ _ _ _ (by decide), lanes 0 (by decide), lanes 1 (by decide),
    lanes 2 (by decide), h2]
  rfl

/-- The line counter after a quantum counts modulo 128 (R155). -/
theorem line_add_four (line : BitVec 7) : line + 4 = BitVec.ofNat 7 ((line.toNat + 4) % 128) := by
  bv_omega

/-- Settles O21: below two pending bytes the buffered case; at two the encoded case, with or without the newline. -/
theorem swrEncodeBuffersAndEncodes : Obligations.SwrEncodeBuffersAndEncodes := by
  refine fun b s ho hs he => ⟨fun h2 => ⟨_, lane_setLane s.stream.buf s.stream.bufcnt b (by omega), ?_⟩, fun h2 => ?_⟩
  · exact (SwrCase.buffered hs he (by bv_omega)).answers ho
  · have complete : ¬ (s.stream.bufcnt + 1).toNat < 3 := by bv_omega
    have line : (s.stream.line + 4).toNat = (s.stream.line.toNat + 4) % 128 := by bv_omega
    dsimp only
    rw [← completedQuantum_of_two_pending h2, ← line_add_four, ← line]
    split_ifs with full
    · rw [show [0x0A] = [Config.newline].map BitVec.toNat from rfl, ← List.map_append, okBytes_map_toNat]
      exact (SwrCase.encodedWithNewline hs he complete full.1 full.2).answers ho
    · rw [List.append_nil, okBytes_map_toNat]
      exact (SwrCase.encoded hs he complete full).answers ho

end Sys2Proof.Machine
end

section
/-! SSTAT's word is the sum of the fields at their places, so it can be read back (spec/42_stream.md R166). -/

namespace Sys2Proof.Machine

/-- A field ORed above the bits of `low` adds its value at its place. -/
theorem toNat_shiftLeft_or {w n : Nat} (v : BitVec n) (low : BitVec w) {k : Nat} (fits : n + k ≤ w)
    (below : low.toNat < 2 ^ k) : (v.setWidth w <<< k ||| low).toNat = low.toNat + v.toNat * 2 ^ k := by
  have inside : v.toNat * 2 ^ k < 2 ^ w :=
    calc v.toNat * 2 ^ k < 2 ^ n * 2 ^ k := Nat.mul_lt_mul_of_pos_right v.isLt (Nat.two_pow_pos k)
      _ = 2 ^ (n + k) := (Nat.pow_add 2 n k).symm
      _ ≤ 2 ^ w := Nat.pow_le_pow_right (by decide) fits
  rw [BitVec.toNat_or, BitVec.toNat_shiftLeft, BitVec.toNat_setWidth_of_le (by omega), Nat.shiftLeft_eq,
    Nat.mod_eq_of_lt inside, ← Nat.shiftLeft_eq, ← Nat.shiftLeft_add_eq_or_of_lt below, Nat.add_comm]

/-- The places of R166: each field begins where the one below it ends, `BUF` lowest. -/
theorem statWord_toNat (S : StreamState) : (statWord S).toNat =
    S.buf.toNat + S.bufcnt.toNat * 2 ^ 24 + S.susp.toNat * 2 ^ 26 + S.fsm.code.toNat * 2 ^ 27
      + S.opt.toNat * 2 ^ 29 + S.line.toNat * 2 ^ 35 := by
  have hbuf : S.buf.toNat < 2 ^ 24 := S.buf.isLt
  have hcnt : S.bufcnt.toNat < 2 ^ 2 := S.bufcnt.isLt
  have hsusp : (BitVec.ofBool S.susp).toNat < 2 ^ 1 := (BitVec.ofBool S.susp).isLt
  have hfsm : S.fsm.code.toNat < 2 ^ 2 := S.fsm.code.isLt
  have hopt : S.opt.toNat < 2 ^ 6 := S.opt.isLt
  have buf : (S.buf.setWidth 64).toNat = S.buf.toNat := BitVec.toNat_setWidth_of_le (by decide)
  have cnt := toNat_shiftLeft_or S.bufcnt (S.buf.setWidth 64) (k := 24) (by decide) (by omega)
  have susp := toNat_shiftLeft_or (BitVec.ofBool S.susp) _ (k := 26) (by decide) (cnt.trans_lt (by omega))
  have fsm := toNat_shiftLeft_or S.fsm.code _ (k := 27) (by decide) (susp.trans_lt (by omega))
  have opt := toNat_shiftLeft_or S.opt _ (k := 29) (by decide) (fsm.trans_lt (by omega))
  have line := toNat_shiftLeft_or S.line _ (k := 35) (by decide) (opt.trans_lt (by omega))
  simp only [statWord, BitVec.or_assoc]
  rw [line, opt, fsm, susp, cnt, buf, BitVec.toNat_ofBool]

/-- The four stream states have four numbers (R22). -/
theorem Fsm.code_inj {f g : Fsm} : f.code = g.code ↔ f = g := by
  cases f <;> cases g <;> decide

/-- Every field of `S` can be read back from SSTAT's response (decision D39). -/
theorem stream_eq_of_statWord_eq {S S' : StreamState} (hword : statWord S' = statWord S) (hpos : S'.pos = S.pos) :
    S' = S := by
  have sums := congrArg BitVec.toNat hword
  rw [statWord_toNat, statWord_toNat] at sums
  have hcode := S.fsm.code.isLt
  have hcode' := S'.fsm.code.isLt
  have hsusp := S.susp.toNat_lt
  have hsusp' := S'.susp.toNat_lt
  have fsm : S'.fsm = S.fsm := Fsm.code_inj.1 (BitVec.eq_of_toNat_eq (by omega))
  have opt : S'.opt = S.opt := BitVec.eq_of_toNat_eq (by omega)
  have buf : S'.buf = S.buf := BitVec.eq_of_toNat_eq (by omega)
  have bufcnt : S'.bufcnt = S.bufcnt := BitVec.eq_of_toNat_eq (by omega)
  have susp : S'.susp = S.susp := by
    rw [Bool.eq_iff_iff, ← Bool.toNat_eq_one, ← Bool.toNat_eq_one]
    omega
  have line : S'.line = S.line := BitVec.eq_of_toNat_eq (by omega)
  cases S
  cases S'
  rw [StreamState.mk.injEq]
  exact ⟨fsm, opt, buf, bufcnt, susp, line, hpos⟩

/-- Settles O29: SSTAT's one case; the word of reset's `S` is 0, and equal words have equal fields. -/
theorem sstatReadsEveryField : Obligations.SstatReadsEveryField := by
  refine ⟨⟨rfl, rfl, rfl, rfl⟩, fun s =>
    ⟨_, (CommandCase.sstat s.stream).answers, rfl, rfl, rfl, rfl, statWord_toNat s.stream, ?_, fun s' hs' => ?_⟩⟩
  · rintro rfl
    exact ⟨rfl, rfl⟩
  · have alike := congrArg Prod.snd ((answers_iff _ _ _ _).1 hs')
    exact stream_eq_of_statWord_eq (congrArg Rsp.rdata alike) (congrArg Rsp.rpos alike)

end Sys2Proof.Machine
end

section
/-! S.FSM and S.POS over every command, case by case (spec/42_stream.md R160, R168). -/

namespace Sys2Proof.Machine

theorem GateCase.ne_opened {f : Fsm} {st : Status} (h : GateCase f st) : f ≠ .opened := by
  cases h <;> decide

/-- SWR in OPEN counts the byte unless it rejects it (R160). -/
theorem SwrCase.pos_eq {b : Byte} {S S' : StreamState} {r : Rsp} (h : SwrCase b S S' r) :
    S'.pos = if r.rstat = .ok then S.pos + 1 else S.pos := by
  cases h <;> rfl

/-- SWR counts the bytes it accepts in OPEN; its gate counts none (R160). -/
theorem CommandCase.pos_swr {b : Byte} {S S' : StreamState} {r : Rsp} (h : CommandCase (.instr (.swr b)) S S' r) :
    S'.pos = if S.fsm = .opened ∧ r.rstat = .ok then S.pos + 1 else S.pos := by
  cases h with
  | stateless _ hr => cases hr
  | gated _ hst => rw [if_neg fun open_ok => hst.ne_opened open_ok.1]
  | swr ho hr => simpa [ho] using hr.pos_eq
  | badPadding hi => simp at hi

/-- A flush that answers OK leaves the position. -/
theorem FlushCase.pos_eq {S S' : StreamState} {r : Rsp} (h : FlushCase S S' r) : S'.pos = S.pos := by
  cases h <;> rfl

/-- No command but SWR and SOPEN writes `S.POS` (R160). -/
theorem CommandCase.pos_eq {cmd : Command} {S S' : StreamState} {r : Rsp} (h : CommandCase cmd S S' r)
    (hswr : ∀ b, cmd ≠ .instr (.swr b)) (hsopen : ∀ opt, cmd ≠ .instr (.sopen opt)) : S'.pos = S.pos := by
  cases h with
  | sopen opt => exact absurd rfl (hsopen opt)
  | swr _ _ => exact absurd rfl (hswr _)
  | sflush _ hr => exact hr.pos_eq
  | ssusp _ hr => exact hr.pos_eq
  | sclose _ hr => exact hr.pos_eq
  | _ => rfl

/-- SOPEN's answer, as a case of a decoded word (R152). -/
theorem CommandCase.sopen_eq {opt : Options} {S S' : StreamState} {r : Rsp}
    (h : CommandCase (.instr (.sopen opt)) S S' r) : S' = StreamState.openStream opt :=
  (congrArg Prod.fst h.answer_eq).symm

/-- Settles O33: the word's answer is one of the listed cases, each with its effect on `S.POS`. -/
theorem positionCountsAcceptedBytes : Obligations.PositionCountsAcceptedBytes := by
  refine fun c s => ⟨_, _, stepAnswers_answerWord c s, fun b hb => ?_, (answerWord_case c s.stream).pos_eq,
    fun opt hopt => ?_⟩
  · have swr := hb ▸ answerWord_case c s.stream
    rw [swr.pos_swr]
    split_ifs
    · exact BitVec.toNat_add _ _
    · rfl
  · have sopen := hopt ▸ answerWord_case c s.stream
    rw [sopen.sopen_eq, StreamState.openStream_pos]

/-- The row of a gated command that the gate stops (R151). -/
theorem gatedRow_of_gateCase {f : Fsm} {st : Status} (h : GateCase f st) (inOpen : Fsm × Status) :
    gatedRow f inOpen = (f, st) := by
  cases h <;> rfl

/-- Outside OPEN a gated command's row does not depend on the command (R168). -/
theorem GatedInstr.transitionTable_of_gateCase {i : Instr} (hi : GatedInstr i) {S : StreamState} {st : Status}
    (h : GateCase S.fsm st) : transitionTable S (.instr i) = (S.fsm, st) := by
  cases hi <;> exact gatedRow_of_gateCase h _

theorem gatedRow_opened (inOpen : Fsm × Status) : gatedRow .opened inOpen = inOpen := rfl

/-- SWR's row in OPEN: FAILED with INVALID_BYTE under the three guards of R159, else OPEN with OK (R168). -/
theorem SwrCase.transition {b : Byte} {S S' : StreamState} {r : Rsp} (h : SwrCase b S S' r) (ho : S.fsm = .opened) :
    (S'.fsm, r.rstat) = transitionTable S (.instr (.swr b)) := by
  rw [transitionTable, ho, gatedRow_opened]
  cases h with
  | suspended hs => simp [hs, ho]
  | buffered _ he _ => simp [he, ho]
  | encodedWithNewline _ he _ _ _ => simp [he, ho]
  | encoded _ he _ _ => simp [he, ho]
  | symbolBuffered _ _ hb _ => rcases hb with hc | hc <;> simp [hc, ho]
  | decoded _ _ hb _ => rcases hb with hc | hc <;> simp [hc, ho]
  | space _ _ hc => simp [hc, ho]
  | invalid hs he hc => simp [hs, he, hc]

/-- A flush that answers OK leaves `S.FSM`, and had no symbols to fail on (R161). -/
theorem FlushCase.fsm_eq {S S' : StreamState} {r : Rsp} (h : FlushCase S S' r) : S'.fsm = S.fsm := by
  cases h <;> rfl

theorem FlushCase.no_pending_symbols {S S' : StreamState} {r : Rsp} (h : FlushCase S S' r) :
    ¬ (S.encodes = false ∧ S.bufcnt ≠ 0) := by
  cases h with
  | nothing h0 => exact fun ⟨_, pending⟩ => pending h0
  | padded _ he => simp [he]

/-- R168's table, on everything a command can do. -/
theorem CommandCase.transition {cmd : Command} {S S' : StreamState} {r : Rsp} (h : CommandCase cmd S S' r) :
    (S'.fsm, r.rstat) = transitionTable S cmd := by
  cases h with
  | illegal op => rfl
  | stateless _ hr => cases hr <;> rfl
  | sopen opt => rfl
  | sstat => rfl
  | gated hi hst => exact (hi.transitionTable_of_gateCase hst).symm
  | swr ho hr => exact hr.transition ho
  | sres ho => rw [transitionTable, ho, gatedRow_opened, emit_rstat]
  | sflush ho hr =>
    rw [transitionTable, ho, gatedRow_opened, if_neg hr.no_pending_symbols, hr.fsm_eq, ho, hr.rstat_eq_ok]
  | ssusp ho hr =>
    rw [transitionTable, ho, gatedRow_opened, if_neg hr.no_pending_symbols, hr.fsm_eq, ho, hr.rstat_eq_ok]
  | sclose ho hr =>
    rw [transitionTable, ho, gatedRow_opened, if_neg hr.no_pending_symbols, hr.rstat_eq_ok]
  | badPadding hi ho h0 he =>
    rcases hi with rfl | rfl | rfl <;>
      rw [transitionTable, ho, gatedRow_opened, if_pos ⟨he, h0⟩, StreamState.enterFailed_fsm, raise_rstat]

/-- In OPEN, SWR answers OK or INVALID_BYTE (R154 to R159). -/
theorem SwrCase.rstat_eq {b : Byte} {S S' : StreamState} {r : Rsp} (h : SwrCase b S S' r) :
    r.rstat = .ok ∨ r.rstat = .invalidByte := by
  cases h with
  | invalid _ _ _ => exact .inr rfl
  | _ => exact .inl rfl

/-- Only the gate answers a gate's status, and it leaves `S` (R151). -/
theorem CommandCase.stream_eq_of_gate_status {cmd : Command} {S S' : StreamState} {r : Rsp}
    (h : CommandCase cmd S S' r) (hst : r.rstat = .notOpen ∨ r.rstat = .streamClosed ∨ r.rstat = .streamFailed) :
    S' = S := by
  cases h with
  | illegal op => rfl
  | stateless _ _ => rfl
  | sopen opt => simp at hst
  | sstat => rfl
  | gated _ _ => rfl
  | swr _ hr => rcases hr.rstat_eq with e | e <;> simp [e] at hst
  | sres _ => simp at hst
  | sflush _ hr => simp [hr.rstat_eq_ok] at hst
  | ssusp _ hr => simp [hr.rstat_eq_ok] at hst
  | sclose _ hr => simp [hr.rstat_eq_ok] at hst
  | badPadding _ _ _ _ => simp at hst

/-- Settles O30: the word's answer is one of the listed cases, each with its row of the table. -/
theorem fsmFollowsTransitionTable : Obligations.FsmFollowsTransitionTable := by
  refine fun c s => ⟨_, _, stepAnswers_answerWord c s, (answerWord_case c s.stream).transition, fun opt hopt => ?_,
    (answerWord_case c s.stream).stream_eq_of_gate_status⟩
  have sopen := hopt ▸ answerWord_case c s.stream
  exact sopen.sopen_eq.trans (StreamState.openStream_eq_reset opt)

end Sys2Proof.Machine
end

section
/-! One quantum: the class of its symbols, and that decoding it gives its bytes back (spec/41_quantum.md R130 to R137,
spec/90_conflicts.md C1). -/

namespace Sys2Proof.Machine

/-- What encoding puts in a quantum: symbols of the alphabet, and `=` for what the padding rule replaces (R130, R131). -/
theorem eq_padChar_or_encRom_of_mem_enc3to4 {a : Alphabet} {b0 b1 b2 : Byte} {n : BitVec 2} {y : Byte}
    (h : y ∈ enc3to4 a b0 b1 b2 n) : y = Config.padChar ∨ ∃ i, y = encRom a i := by
  simp only [enc3to4] at h
  split at h <;> grind

theorem isSymbolOf_of_mem_enc3to4 {a : Alphabet} {b0 b1 b2 : Byte} {n : BitVec 2} {y : Byte}
    (h : y ∈ enc3to4 a b0 b1 b2 n) : isSymbolOf a y := by
  rcases eq_padChar_or_encRom_of_mem_enc3to4 h with rfl | ⟨i, rfl⟩
  · exact .inr (byteClass_padChar a)
  · exact .inl (byteClass_encRom a i)

/-- A newline has class WS, so no quantum holds one. -/
theorem newline_not_mem_enc3to4 (a : Alphabet) (b0 b1 b2 : Byte) (n : BitVec 2) :
    Config.newline ∉ enc3to4 a b0 b1 b2 n := fun h => by
  rcases isSymbolOf_of_mem_enc3to4 h with hc | hc <;> simp [byteClass_newline] at hc

/-- The raw entry of a symbol is its 6-bit value (R110 (a), R137). -/
theorem rawEntry_encRom (a : Alphabet) (v : BitVec 6) : rawEntry a (encRom a v) = v.setWidth 32 := by
  rw [rawEntry, decRom_encRom, BitVec.setWidth_setWidth (by decide)]

section Group
variable (a : Alphabet) (t : BitVec 24)

/-- Path 1 gives the top byte of the 24-bit group back (R135). -/
theorem dec4to3_one_byte_group (s3 : Byte) :
    dec4to3 a (encRom a (t.extractLsb' 18 6)) (encRom a (t.extractLsb' 12 6)) Config.padChar s3 = [lane t 2] := by
  simp only [dec4to3, if_true, rawEntry_encRom, path1, lane, List.cons.injEq, and_true]
  ext i hi; interval_cases i <;> simp

/-- Path 2 gives the top two bytes of the group back (R136). -/
theorem dec4to3_two_byte_group :
    dec4to3 a (encRom a (t.extractLsb' 18 6)) (encRom a (t.extractLsb' 12 6)) (encRom a (t.extractLsb' 6 6))
      Config.padChar = [lane t 2, lane t 1] := by
  simp only [dec4to3, if_true, encRom_ne_padChar, if_false, rawEntry_encRom, path2, lane,
    List.cons.injEq, and_true]
  refine ⟨?_, ?_⟩ <;> (ext i hi; interval_cases i <;> simp)

/-- Path 3 gives the whole group back (R137). -/
theorem dec4to3_three_byte_group :
    dec4to3 a (encRom a (t.extractLsb' 18 6)) (encRom a (t.extractLsb' 12 6)) (encRom a (t.extractLsb' 6 6))
      (encRom a (t.extractLsb' 0 6)) = [lane t 2, lane t 1, lane t 0] := by
  simp only [dec4to3, encRom_ne_padChar, if_false, rawEntry_encRom, path3, lane, List.cons.injEq, and_true]
  refine ⟨?_, ?_, ?_⟩ <;> (ext i hi; interval_cases i <;> simp)

end Group

/-- Decoding an encoded quantum gives its significant bytes back, and only a partial quantum ends with `=`. -/
theorem exists_enc3to4_eq_and_dec4to3_eq (a : Alphabet) (b0 b1 b2 : Byte) {n : BitVec 2} (hn : n ≠ 0) :
    ∃ y0 y1 y2 y3, enc3to4 a b0 b1 b2 n = [y0, y1, y2, y3] ∧ (y3 = Config.padChar → n ≠ 3) ∧
      dec4to3 a y0 y1 y2 y3 = [b0, b1, b2].take n.toNat := by
  have counts : ∀ m : BitVec 2, m ≠ 0 → m = 1 ∨ m = 2 ∨ m = 3 := by decide
  rcases counts n hn with rfl | rfl | rfl
  · refine ⟨_, _, _, _, rfl, by decide, ?_⟩
    obtain ⟨-, -, top⟩ := lane_join3 b0 0 0
    rw [dec4to3_one_byte_group]
    exact congrArg (fun x => [x]) top
  · refine ⟨_, _, _, _, rfl, by decide, ?_⟩
    obtain ⟨-, middle, top⟩ := lane_join3 b0 b1 0
    rw [dec4to3_two_byte_group]
    exact congrArg₂ (fun x y => [x, y]) top middle
  · refine ⟨_, _, _, _, rfl, fun h => absurd h (encRom_ne_padChar a _), ?_⟩
    obtain ⟨low, middle, top⟩ := lane_join3 b0 b1 b2
    rw [dec4to3_three_byte_group]
    simp [low, middle, top]

end Sys2Proof.Machine
end

section
/-! The loop of `HostEncode` a stride at a time, the last group of one or two bytes among them (spec/45_host_sequences.md
R202). -/

namespace Sys2Proof.Machine

/-- The quantum of the first stride of `d`: three bytes, or the one or two that remain. -/
def strideQuantum (a : Alphabet) (d : List Byte) : List Byte :=
  enc3to4 a (d.getD 0 0) (d.getD 1 0) (d.getD 2 0) (BitVec.ofNat 2 (min d.length 3))

/-- R202's loop and its final partial group are one equation. -/
theorem hostEncodeLoop_eq_stride (a : Alphabet) (brk : Bool) (line : Nat) {d : List Byte} (h : d ≠ []) :
    hostEncodeLoop a brk line d = breakIfFull brk line ++ strideQuantum a d ++
      hostEncodeLoop a brk (lineAfterBreak brk line + 4) (d.drop 3) := by
  match d with
  | [b0] => simp [hostEncodeLoop, strideQuantum]
  | [b0, b1] => simp [hostEncodeLoop, strideQuantum]
  | b0 :: b1 :: b2 :: rest => simp [hostEncodeLoop, strideQuantum]

@[simp] theorem hostEncodeLoop_nil (a : Alphabet) (brk : Bool) (line : Nat) : hostEncodeLoop a brk line [] = [] := rfl

/-- Induction over a byte sequence in strides of three bytes. -/
theorem stride_induction {motive : List Byte → Prop} (nil : motive [])
    (stride : ∀ d, d ≠ [] → motive (d.drop 3) → motive d) : ∀ d, motive d
  | [] => nil
  | [_] => stride _ (List.cons_ne_nil _ _) nil
  | [_, _] => stride _ (List.cons_ne_nil _ _) nil
  | _ :: _ :: _ :: rest => stride _ (List.cons_ne_nil _ _) (stride_induction nil stride rest)

/-- The count fits its two bits. -/
theorem strideCount_toNat (d : List Byte) : (BitVec.ofNat 2 (min d.length 3)).toNat = min d.length 3 := by
  rw [BitVec.toNat_ofNat]; omega

theorem strideCount_ne_zero {d : List Byte} (h : d ≠ []) : BitVec.ofNat 2 (min d.length 3) ≠ 0 := by
  have positive : 0 < d.length := List.length_pos_of_ne_nil h
  have count := strideCount_toNat d
  intro h0
  rw [h0, BitVec.ofNat_eq_ofNat, BitVec.toNat_zero] at count
  omega

theorem strideQuantum_length (a : Alphabet) {d : List Byte} (h : d ≠ []) : (strideQuantum a d).length = 4 := by
  rw [strideQuantum, enc3to4_length, if_neg (strideCount_ne_zero h)]

theorem newline_not_mem_strideQuantum (a : Alphabet) (d : List Byte) : Config.newline ∉ strideQuantum a d :=
  newline_not_mem_enc3to4 _ _ _ _ _

/-- The bytes of a stride that count, without the 0s that fill its quantum. -/
theorem take_stride (d : List Byte) : [d.getD 0 0, d.getD 1 0, d.getD 2 0].take (min d.length 3) = d.take 3 := by
  match d with
  | [] => rfl
  | [_] => rfl
  | [_, _] => rfl
  | _ :: _ :: _ :: _ => simp

/-- A stride's quantum decodes to the stride, and it ends with `=` only where nothing follows it. -/
theorem exists_strideQuantum_eq (a : Alphabet) {d : List Byte} (h : d ≠ []) :
    ∃ y0 y1 y2 y3, strideQuantum a d = [y0, y1, y2, y3] ∧ (y3 = Config.padChar → d.drop 3 = []) ∧
      dec4to3 a y0 y1 y2 y3 = d.take 3 := by
  obtain ⟨y0, y1, y2, y3, quantum, pad, bytes⟩ :=
    exists_enc3to4_eq_and_dec4to3_eq a (d.getD 0 0) (d.getD 1 0) (d.getD 2 0) (strideCount_ne_zero h)
  refine ⟨y0, y1, y2, y3, quantum, fun hy => List.drop_eq_nil_of_le ?_, ?_⟩
  · by_contra long
    exact pad hy (congrArg (BitVec.ofNat 2) (Nat.min_eq_right (by omega)))
  · rw [bytes, strideCount_toNat, take_stride]

/-- `BreakIfFull()`: a newline and an empty line, or nothing (R202). -/
theorem breakIfFull_cases (brk : Bool) (line : Nat) :
    (brk = true ∧ 76 ≤ line ∧ breakIfFull brk line = [Config.newline] ∧ lineAfterBreak brk line = 0) ∨
    ((brk = true → line < 76) ∧ breakIfFull brk line = [] ∧ lineAfterBreak brk line = line) := by
  by_cases full : brk = true ∧ Config.maxLine ≤ line
  · exact .inl ⟨full.1, full.2, if_pos full, if_pos full⟩
  · exact .inr ⟨fun hb => Nat.lt_of_not_le fun hl => full ⟨hb, hl⟩, if_neg full, if_neg full⟩

/-- What the loop's `line` can be: quanta add 4 to it, and with line breaks it never passes 76 (R202). -/
structure HostLineLegal (brk : Bool) (line : Nat) : Prop where
  fours : line % 4 = 0
  le_of_break : brk = true → line ≤ 76

theorem hostLineLegal_zero (brk : Bool) : HostLineLegal brk 0 := ⟨rfl, fun _ => Nat.zero_le _⟩

theorem HostLineLegal.next {brk : Bool} {line : Nat} (h : HostLineLegal brk line) :
    HostLineLegal brk (lineAfterBreak brk line + 4) := by
  have fours := h.fours
  rcases breakIfFull_cases brk line with ⟨-, -, -, e⟩ | ⟨room, -, e⟩ <;> rw [e]
  · exact ⟨rfl, fun _ => by decide⟩
  · exact ⟨by omega, fun hb => by have := room hb; omega⟩

end Sys2Proof.Machine
end

section
/-! How long a whole-buffer encode is and where its newlines stand (spec/45_host_sequences.md R201, R203). -/

namespace Sys2Proof.Machine

theorem hostEncode_of_not_gzip (p : Config.HostParams) (s : State) (d : List Byte) {o : Options} (h : optGzip o = false) :
    hostEncode p s d o = hostEncodeLoop (alphaSel o) (optBreakLines o) 0 d := by
  simp [hostEncode, hostEncodePlain, h]

/-- Four symbols per stride, and with line breaks one newline per 76 symbols but the last, those of `line` counted. -/
theorem hostEncodeLoop_length (a : Alphabet) {brk : Bool} {line : Nat} (h : HostLineLegal brk line) (d : List Byte) :
    (hostEncodeLoop a brk line d).length =
      4 * ((d.length + 2) / 3) + if brk = true then (line + 4 * ((d.length + 2) / 3) - 1) / 76 else 0 := by
  induction d using stride_induction generalizing line with
  | nil =>
    cases brk with
    | false => rfl
    | true => have := h.le_of_break rfl; simp; omega
  | stride d hd ih =>
    have positive : 0 < d.length := List.length_pos_of_ne_nil hd
    rw [hostEncodeLoop_eq_stride a brk line hd, List.length_append, List.length_append, strideQuantum_length a hd,
      ih h.next, List.length_drop]
    rcases breakIfFull_cases brk line with ⟨hb, full, e, e'⟩ | ⟨room, e, e'⟩ <;> rw [e, e']
    · have := h.le_of_break hb
      simp only [List.length_singleton, hb, if_true]
      omega
    · rw [List.length_nil]
      split_ifs with hb
      · have := room hb
        omega
      · omega

/-- From an empty line that is R201's length, whose case of no symbols the formula above covers. -/
theorem hostEncodeLoop_length_eq_encodedLength (a : Alphabet) (brk : Bool) (d : List Byte) :
    (hostEncodeLoop a brk 0 d).length = encodedLength d.length brk := by
  rw [hostEncodeLoop_length a (hostLineLegal_zero brk), encodedLength]
  cases brk with
  | false => simp
  | true =>
    simp only [true_and]
    split_ifs <;> omega

/-- Settles O47: the loop's length is R201's, and R201's formulas differ where the symbols fill the last line. -/
theorem hostEncodeLength : Obligations.HostEncodeLength := by
  intro p s d o ho
  rw [hostEncode_of_not_gzip p s d ho]
  refine ⟨hostEncodeLoop_length_eq_encodedLength _ _ d, fun hb => ?_⟩
  rw [hostEncodeLoop_length _ (hostLineLegal_zero _), if_pos hb]
  split_ifs <;> omega

/-- The newlines of an output that begins with `line` symbols on its line: those that end a full line, no other byte. -/
def NewlinesFrom (brk : Bool) (line : Nat) (xs : List Byte) : Prop :=
  ∀ k b, xs[k]? = some b → (b = Config.newline ↔ brk = true ∧ (line + k) % 77 = 76)

theorem newlinesFrom_nil (brk : Bool) (line : Nat) : NewlinesFrom brk line [] := by simp [NewlinesFrom]

/-- A quantum has no newline, and it ends before the line does. -/
theorem NewlinesFrom.quantum_append {brk : Bool} {line : Nat} {q xs : List Byte} (h : NewlinesFrom brk (line + 4) xs)
    (fits : brk = true → line ≤ 72) (hlen : q.length = 4) (hq : Config.newline ∉ q) : NewlinesFrom brk line (q ++ xs) := by
  intro k b hk
  rcases Nat.lt_or_ge k q.length with inside | after
  · rw [List.getElem?_append_left inside] at hk
    have other : b ≠ Config.newline := fun e => hq (e ▸ List.mem_of_getElem? hk)
    exact iff_of_false other fun ⟨hb, hm⟩ => by have := fits hb; omega
  · rw [List.getElem?_append_right after] at hk
    rw [h _ b hk, show line + 4 + (k - q.length) = line + k by omega]

/-- The newline of a full line; the next line begins at 0. -/
theorem NewlinesFrom.newline_cons {xs : List Byte} (h : NewlinesFrom true 0 xs) :
    NewlinesFrom true 76 (Config.newline :: xs) := by
  intro k b hk
  cases k with
  | zero => simpa [eq_comm] using hk
  | succ k =>
    rw [h k b hk, show 76 + (k + 1) = 0 + k + 77 by omega, Nat.add_mod_right]

theorem newlinesFrom_hostEncodeLoop (a : Alphabet) {brk : Bool} {line : Nat} (h : HostLineLegal brk line) (d : List Byte) :
    NewlinesFrom brk line (hostEncodeLoop a brk line d) := by
  induction d using stride_induction generalizing line with
  | nil => exact newlinesFrom_nil brk line
  | stride d hd ih =>
    have rest := ih h.next
    have fits : brk = true → lineAfterBreak brk line ≤ 72 := fun hb => by
      have := h.next.le_of_break hb
      omega
    have quantum := rest.quantum_append fits (strideQuantum_length a hd) (newline_not_mem_strideQuantum a d)
    rw [hostEncodeLoop_eq_stride a brk line hd, List.append_assoc]
    rcases breakIfFull_cases brk line with ⟨hb, full, e, e'⟩ | ⟨-, e, e'⟩
    · obtain rfl : line = 76 := Nat.le_antisymm (h.le_of_break hb) full
      subst hb
      rw [e'] at quantum
      rw [e, e']
      exact quantum.newline_cons
    · rw [e'] at quantum
      rw [e, e']
      exact quantum

/-- Settles O48: the loop's newlines end its full lines, and its length leaves its last byte inside a line. -/
theorem hostEncodeNewlinePlacement : Obligations.HostEncodeNewlinePlacement := by
  intro p s d o ho
  rw [hostEncode_of_not_gzip p s d ho]
  have newlines := newlinesFrom_hostEncodeLoop (alphaSel o) (hostLineLegal_zero (optBreakLines o)) d
  refine ⟨fun k hk => ?_, fun hlast => ?_⟩
  · simpa [Config.newline] using newlines k _ (List.getElem?_eq_getElem hk)
  · rw [List.getLast?_eq_getElem?] at hlast
    obtain ⟨hb, hm⟩ := (newlines _ _ hlast).1 rfl
    rw [hostEncodeLoop_length (alphaSel o) (hostLineLegal_zero _), if_pos hb] at hm
    omega

end Sys2Proof.Machine
end

section
/-! The walk of `HostDecode`, and the whole-buffer round trip (spec/45_host_sequences.md R205 to R209, R216). -/

namespace Sys2Proof.Machine

/-- Settles O50: the two tests on the length that come before the walk. -/
theorem hostDecodeShortRanges : Obligations.HostDecodeShortRanges := by
  refine ⟨fun o => rfl, fun e o positive short => ?_⟩
  have underlength : hostDecode e o = .underlength := by
    rw [hostDecode, if_neg (by omega), if_pos short]
  exact ⟨underlength, by rw [underlength]; rfl⟩

theorem hostDecode_of_four_le {e : List Byte} (h : 4 ≤ e.length) (o : Options) :
    hostDecode e o = hostDecodeLoop (alphaSel o) 0 [] [] e := by
  rw [hostDecode, if_neg (by omega), if_neg (by omega)]

section Walk
variable {a : Alphabet} {b : Byte}

/-- Fewer than three symbols before it: the symbol is accumulated (R207). -/
theorem hostAccumulate_of_length_lt {q : List Byte} (h : q.length < 3) (b : Byte) :
    hostAccumulate a q b = (q ++ [b], []) := by
  match q with
  | [] | [_] | [_, _] => rfl
  | _ :: _ :: _ :: _ => simp at h; omega

/-- A whitespace byte is skipped (R207). -/
theorem hostDecodeLoop_space (h : byteClass a b = .ws) (pos : Nat) (q out rest : List Byte) :
    hostDecodeLoop a pos q out (b :: rest) = hostDecodeLoop a (pos + 1) q out rest := by
  simp [hostDecodeLoop, h]

/-- A symbol that does not complete a quantum is accumulated, `=` too (R207, R208). -/
theorem hostDecodeLoop_symbol (h : isSymbolOf a b) {q : List Byte} (hq : q.length < 3) (pos : Nat) (out rest : List Byte) :
    hostDecodeLoop a pos q out (b :: rest) = hostDecodeLoop a (pos + 1) (q ++ [b]) out rest := by
  rcases h with h | h
  · simp [hostDecodeLoop, h, hostAccumulate_of_length_lt hq]
  · simp [hostDecodeLoop, h, hostAccumulate_of_length_lt hq, hq.ne]

/-- Four symbols are decoded, and the walk goes on unless the fourth is `=`, where it has nothing left to read (R207,
R208). -/
theorem hostDecodeLoop_quantum {y0 y1 y2 y3 : Byte} (h : ∀ y ∈ [y0, y1, y2, y3], isSymbolOf a y) {rest : List Byte}
    (last : y3 = Config.padChar → rest = []) (pos : Nat) (out : List Byte) :
    hostDecodeLoop a pos [] out ([y0, y1, y2, y3] ++ rest) =
      hostDecodeLoop a (pos + 4) [] (out ++ dec4to3 a y0 y1 y2 y3) rest := by
  simp only [List.forall_mem_cons] at h
  obtain ⟨h0, h1, h2, h3, -⟩ := h
  simp only [List.cons_append, List.nil_append]
  rw [hostDecodeLoop_symbol h0 (by decide), hostDecodeLoop_symbol h1 (by simp), hostDecodeLoop_symbol h2 (by simp)]
  rcases h3 with h3 | h3
  · simp [hostDecodeLoop, h3, hostAccumulate]
  · obtain rfl := last (eq_padChar_of_byteClass_pad a y3 h3)
    simp [hostDecodeLoop, h3, hostAccumulate]

/-- `BreakIfFull()` writes only whitespace, which the walk skips. -/
theorem hostDecodeLoop_breakIfFull (brk : Bool) (line pos : Nat) (q out rest : List Byte) :
    ∃ pos', hostDecodeLoop a pos q out (breakIfFull brk line ++ rest) = hostDecodeLoop a pos' q out rest := by
  rcases breakIfFull_cases brk line with ⟨-, -, e, -⟩ | ⟨-, e, -⟩ <;> rw [e]
  · exact ⟨pos + 1, hostDecodeLoop_space (byteClass_newline a) pos q out rest⟩
  · exact ⟨pos, rfl⟩

end Walk

/-- The walk over the loop's output gives the bytes back, stride by stride, wherever it stands. -/
theorem hostDecodeLoop_hostEncodeLoop (a : Alphabet) (brk : Bool) (line pos : Nat) (out d : List Byte) :
    hostDecodeLoop a pos [] out (hostEncodeLoop a brk line d) = .bytes (out ++ d) := by
  induction d using stride_induction generalizing line pos out with
  | nil => simp [hostDecodeLoop]
  | stride d hd ih =>
    obtain ⟨y0, y1, y2, y3, quantum, pad, bytes⟩ := exists_strideQuantum_eq a hd
    have symbols : ∀ y ∈ [y0, y1, y2, y3], isSymbolOf a y := fun y hy =>
      isSymbolOf_of_mem_enc3to4 (quantum ▸ hy : y ∈ strideQuantum a d)
    have last : y3 = Config.padChar → hostEncodeLoop a brk (lineAfterBreak brk line + 4) (d.drop 3) = [] := fun hy => by
      rw [pad hy, hostEncodeLoop_nil]
    obtain ⟨pos', skip⟩ := hostDecodeLoop_breakIfFull (a := a) brk line pos [] out
      (strideQuantum a d ++ hostEncodeLoop a brk (lineAfterBreak brk line + 4) (d.drop 3))
    rw [hostEncodeLoop_eq_stride a brk line hd, List.append_assoc, skip, quantum,
      hostDecodeLoop_quantum symbols last, ih, bytes, List.append_assoc, List.take_append_drop]

theorem four_le_hostEncodeLoop_length (a : Alphabet) (brk : Bool) {d : List Byte} (h : d ≠ []) :
    4 ≤ (hostEncodeLoop a brk 0 d).length := by
  have positive : 0 < d.length := List.length_pos_of_ne_nil h
  rw [hostEncodeLoop_length a (hostLineLegal_zero brk)]
  omega

/-- ENCODE is bit 0, which GZIP and the alphabet do not read (R6). -/
theorem optGzip_or_encode (o : Options) : optGzip (o ||| 1) = optGzip o := by
  simp [optGzip]

theorem alphaSel_or_encode (o : Options) : alphaSel (o ||| 1) = alphaSel o := by
  simp [alphaSel]

/-- Settles O58: nothing encodes to nothing; else the range is long enough for the walk, which inverts the loop. -/
theorem wholeBufferRoundTrip : Obligations.WholeBufferRoundTrip := by
  intro p s d o ho
  rw [hostEncode_of_not_gzip p s d ((optGzip_or_encode o).trans ho), alphaSel_or_encode]
  rcases eq_or_ne d [] with rfl | hd
  · rfl
  · rw [hostDecode_of_four_le (four_le_hostEncodeLoop_length _ _ hd), hostDecodeLoop_hostEncodeLoop, List.nil_append]

end Sys2Proof.Machine
end

section
/-! The responses that are not OK, and entering FAILED (spec/60_exceptions.md R231 to R233, R238). -/

namespace Sys2Proof.Machine

/-- Every command whose status is not OK, with the state it meets, the state it leaves and its response (R230 to R233). -/
inductive FailureCase : Command → StreamState → StreamState → Rsp → Prop where
  | illegal (op : BitVec 4) (S : StreamState) : FailureCase (.illegal op) S S (raise .illegal 0 0)
  | gated {i : Instr} {S : StreamState} {st : Status} : GatedInstr i → GateCase S.fsm st →
      FailureCase (.instr i) S S (raise st 0 0)
  | invalidByte (b : Byte) (S : StreamState) :
      FailureCase (.instr (.swr b)) S S.enterFailed (raise .invalidByte b S.pos)
  | badPadding {i : Instr} (S : StreamState) : i = .sflush ∨ i = .ssusp ∨ i = .sclose →
      FailureCase (.instr i) S S.enterFailed (raise .badPadding 0 S.pos)

/-- In OPEN, SWR fails only on an INVALID byte (R159). -/
theorem SwrCase.failureCase {b : Byte} {S S' : StreamState} {r : Rsp} (h : SwrCase b S S' r) (hfail : r.rstat ≠ .ok) :
    FailureCase (.instr (.swr b)) S S' r := by
  cases h with
  | invalid _ _ _ => exact .invalidByte b S
  | _ => exact absurd rfl hfail

/-- Every command answers OK or does one of the listed things. -/
theorem CommandCase.failureCase {cmd : Command} {S S' : StreamState} {r : Rsp} (h : CommandCase cmd S S' r)
    (hfail : r.rstat ≠ .ok) : FailureCase cmd S S' r := by
  cases h with
  | illegal op => exact .illegal op S
  | stateless _ hr => exact absurd hr.rstat_eq_ok hfail
  | gated hi hst => exact .gated hi hst
  | swr _ hr => exact hr.failureCase hfail
  | sflush _ hr => exact absurd hr.rstat_eq_ok hfail
  | ssusp _ hr => exact absurd hr.rstat_eq_ok hfail
  | sclose _ hr => exact absurd hr.rstat_eq_ok hfail
  | badPadding hi _ _ _ => exact .badPadding S hi
  | _ => exact absurd rfl hfail

section Failure
variable {cmd : Command} {S S' : StreamState} {r : Rsp}

theorem FailureCase.rdata_eq_zero (h : FailureCase cmd S S' r) : r.rdata = 0 := by
  cases h <;> rfl

/-- Only INVALID_BYTE reports a byte (R232). -/
theorem FailureCase.invalidByte_of_rbyte (h : FailureCase cmd S S' r) (hb : r.rbyte ≠ 0) : r.rstat = .invalidByte := by
  cases h with
  | invalidByte _ _ => rfl
  | _ => exact absurd rfl hb

/-- Only INVALID_BYTE and BAD_PADDING report a position (R232, R233). -/
theorem FailureCase.error_of_rpos (h : FailureCase cmd S S' r) (hp : r.rpos ≠ 0) :
    r.rstat = .invalidByte ∨ r.rstat = .badPadding := by
  cases h with
  | invalidByte _ _ => exact .inl rfl
  | badPadding _ _ => exact .inr rfl
  | _ => exact absurd rfl hp

/-- The gate raises neither INVALID_BYTE nor BAD_PADDING (R151). -/
theorem GateCase.not_error {f : Fsm} {st : Status} (h : GateCase f st) : ¬ (st = .invalidByte ∨ st = .badPadding) := by
  cases h <;> decide

/-- INVALID_BYTE and BAD_PADDING change `S.FSM` alone (R238). -/
theorem FailureCase.stream_eq_enterFailed (h : FailureCase cmd S S' r)
    (hst : r.rstat = .invalidByte ∨ r.rstat = .badPadding) : S' = S.enterFailed := by
  cases h with
  | illegal op => simp at hst
  | gated _ hg => exact absurd hst hg.not_error
  | invalidByte _ _ => rfl
  | badPadding _ _ => rfl

theorem FailureCase.swr_of_invalidByte (h : FailureCase cmd S S' r) (hst : r.rstat = .invalidByte) :
    ∃ b, cmd = .instr (.swr b) := by
  cases h with
  | illegal op => cases hst
  | gated _ hg => exact absurd (.inl hst) hg.not_error
  | invalidByte b _ => exact ⟨b, rfl⟩
  | badPadding _ _ => cases hst

theorem FailureCase.flush_of_badPadding (h : FailureCase cmd S S' r) (hst : r.rstat = .badPadding) :
    cmd = .instr .sflush ∨ cmd = .instr .ssusp ∨ cmd = .instr .sclose := by
  cases h with
  | illegal op => cases hst
  | gated _ hg => exact absurd (.inr hst) hg.not_error
  | invalidByte b _ => cases hst
  | badPadding _ hi => simpa using hi

end Failure

/-- Only the two errors enter FAILED: every other answer leaves `S.FSM`, opens the stream or closes it (R168, R238). -/
theorem CommandCase.error_of_enters_failed {cmd : Command} {S S' : StreamState} {r : Rsp} (h : CommandCase cmd S S' r)
    (hS : S.fsm ≠ .failed) (hS' : S'.fsm = .failed) : r.rstat = .invalidByte ∨ r.rstat = .badPadding := by
  cases h with
  | sopen opt => simp at hS'
  | swr _ hr =>
    cases hr with
    | invalid _ _ _ => exact .inl rfl
    | _ => exact absurd hS' hS
  | sflush _ hr => exact absurd (hr.fsm_eq.symm.trans hS') hS
  | ssusp _ hr => exact absurd (hr.fsm_eq.symm.trans hS') hS
  | sclose _ _ => simp at hS'
  | badPadding _ _ _ _ => exact .inr rfl
  | _ => exact absurd hS' hS

/-- Settles O34: the word's answer is one of the listed cases, and of these only the two errors enter FAILED. -/
theorem enteringFailedChangesOnlyFsm : Obligations.EnteringFailedChangesOnlyFsm := by
  intro c s
  have answered := answerWord_case c s.stream
  refine ⟨_, _, stepAnswers_answerWord c s, fun hst => ?_, fun hst => ?_, fun hst => ?_, answered.error_of_enters_failed⟩
  · have notOk : (answerWord c s.stream).2.rstat ≠ .ok := by rcases hst with e | e <;> simp [e]
    exact (answered.failureCase notOk).stream_eq_enterFailed hst
  · exact (answered.failureCase (by simp [hst])).swr_of_invalidByte hst
  · exact (answered.failureCase (by simp [hst])).flush_of_badPadding hst

/-- Settles O36: a response that is not OK is one of the listed failures, each raised with no bytes. -/
theorem failingResponsesCarryNoBytes : Obligations.FailingResponsesCarryNoBytes := by
  refine fun c s => ⟨_, _, stepAnswers_answerWord c s, fun hfail => ?_⟩
  have answered := answerWord_case c s.stream
  have failed := answered.failureCase hfail
  exact ⟨answered.rlen_eq_zero hfail, failed.rdata_eq_zero, failed.invalidByte_of_rbyte, failed.error_of_rpos⟩

end Sys2Proof.Machine
end

section
/-! Decode and encode agree: a decoded command, encoded again, is the word under its command's mask (spec/30_encoding.md
R60, R66, R74). -/

namespace Sys2Proof.Machine

/-- Equal fields are equal numbers. -/
theorem toNat_div_mod_congr {w len : Nat} {v v' : BitVec w} {start : Nat}
    (h : v.extractLsb' start len = v'.extractLsb' start len) :
    v.toNat / 2 ^ start % 2 ^ len = v'.toNat / 2 ^ start % 2 ^ len := by
  simpa [extractLsb'_eq_ofNat_div] using congrArg BitVec.toNat h

/-- A word is its five fields (R60). -/
theorem eq_of_fields {c c' : CmdWord} (op : fieldOp c = fieldOp c') (opt : fieldOpt c = fieldOpt c')
    (cnt : fieldCnt c = fieldCnt c') (rsv : fieldRsv c = fieldRsv c') (data : fieldData c = fieldData c') : c = c' := by
  have hop := toNat_div_mod_congr op
  have hopt := toNat_div_mod_congr opt
  have hcnt := toNat_div_mod_congr cnt
  have hrsv := toNat_div_mod_congr rsv
  have hdata := toNat_div_mod_congr data
  apply BitVec.eq_of_toNat_eq
  omega

/-- DATA is its four lanes (R44). -/
theorem eq_of_lanes {d d' : BitVec 32} (h : ∀ k < 4, lane d k = lane d' k) : d = d' := by
  have h0 := toNat_div_mod_congr (h 0 (by decide))
  have h1 := toNat_div_mod_congr (h 1 (by decide))
  have h2 := toNat_div_mod_congr (h 2 (by decide))
  have h3 := toNat_div_mod_congr (h 3 (by decide))
  apply BitVec.eq_of_toNat_eq
  omega

theorem lane_and {w : Nat} (v m : BitVec w) (k : Nat) : lane (v &&& m) k = lane v k &&& lane m k :=
  BitVec.extractLsb'_and

/-- Fields of a word that are kept under masks, put together again, are the word under the masks put together. -/
theorem commandWord_fields_and (c : CmdWord) (opt : Options) (cnt : BitVec 2) (data : BitVec 32) :
    commandWord (fieldOp c) (fieldOpt c &&& opt) (fieldCnt c &&& cnt) (fieldData c &&& data) =
      c &&& commandWord 0xF opt cnt data := by
  have op_and (m : CmdWord) : fieldOp (c &&& m) = fieldOp c &&& fieldOp m := BitVec.extractLsb'_and
  have opt_and (m : CmdWord) : fieldOpt (c &&& m) = fieldOpt c &&& fieldOpt m := BitVec.extractLsb'_and
  have cnt_and (m : CmdWord) : fieldCnt (c &&& m) = fieldCnt c &&& fieldCnt m := BitVec.extractLsb'_and
  have rsv_and (m : CmdWord) : fieldRsv (c &&& m) = fieldRsv c &&& fieldRsv m := BitVec.extractLsb'_and
  have data_and (m : CmdWord) : fieldData (c &&& m) = fieldData c &&& fieldData m := BitVec.extractLsb'_and
  apply eq_of_fields
  · rw [op_and, fieldOp_commandWord, fieldOp_commandWord]
    exact (BitVec.and_allOnes (x := fieldOp c)).symm
  · rw [opt_and, fieldOpt_commandWord, fieldOpt_commandWord]
  · rw [cnt_and, fieldCnt_commandWord, fieldCnt_commandWord]
  · rw [rsv_and, fieldRsv_commandWord, fieldRsv_commandWord, BitVec.ofNat_eq_ofNat, BitVec.and_zero]
  · rw [data_and, fieldData_commandWord, fieldData_commandWord]

/-- The same of DATA's lanes (R44). -/
theorem dataWord_lanes_and (d : BitVec 32) (m0 m1 m2 m3 : Byte) :
    dataWord (lane d 0 &&& m0) (lane d 1 &&& m1) (lane d 2 &&& m2) (lane d 3 &&& m3) = d &&& dataWord m0 m1 m2 m3 := by
  obtain ⟨l0, l1, l2, l3⟩ := lane_dataWord (lane d 0 &&& m0) (lane d 1 &&& m1) (lane d 2 &&& m2) (lane d 3 &&& m3)
  obtain ⟨k0, k1, k2, k3⟩ := lane_dataWord m0 m1 m2 m3
  refine eq_of_lanes fun k hk => ?_
  rw [lane_and]
  interval_cases k
  · rw [l0, k0]
  · rw [l1, k1]
  · rw [l2, k2]
  · rw [l3, k3]

/-- LUTE's index is DATA's lowest six bits (R66, R111). -/
theorem index_setWidth_eq_and (d : BitVec 32) : (d.extractLsb' 0 6).setWidth 32 = d &&& 0x3F := by
  apply BitVec.eq_of_toNat_eq
  rw [extractLsb'_eq_ofNat_div, BitVec.toNat_setWidth_of_le (by decide), BitVec.toNat_ofNat, BitVec.toNat_and,
    Nat.pow_zero, Nat.div_one]
  exact (Nat.and_two_pow_sub_one_eq_mod d.toNat 6).symm

/-- A word under the mask of its opcode, field by field: the masks are those that put together give `readMask`. -/
theorem commandWord_eq_and_readMask {c : CmdWord} {op : BitVec 4} (hop : (fieldOp c).toNat = op.toNat) (opt : Options)
    (cnt : BitVec 2) (data : BitVec 32) (hm : readMask op = commandWord 0xF opt cnt data) :
    commandWord op (fieldOpt c &&& opt) (fieldCnt c &&& cnt) (fieldData c &&& data) = c &&& readMask (fieldOp c) := by
  obtain rfl : fieldOp c = op := BitVec.eq_of_toNat_eq hop
  rw [hm, commandWord_fields_and]

/-- The mask of a command without operands keeps OP alone. -/
theorem commandWord_opcode_eq_and_readMask {c : CmdWord} {op : BitVec 4} (hop : (fieldOp c).toNat = op.toNat)
    (hm : readMask op = commandWord 0xF 0 0 0) : commandWord op 0 0 0 = c &&& readMask (fieldOp c) := by
  simpa using commandWord_eq_and_readMask hop 0 0 0 hm

/-- The same where DATA's mask is given lane by lane. -/
theorem commandWord_lanes_eq_and_readMask {c : CmdWord} {op : BitVec 4} (hop : (fieldOp c).toNat = op.toNat) (opt : Options)
    (cnt : BitVec 2) (m0 m1 m2 m3 : Byte) (hm : readMask op = commandWord 0xF opt cnt (dataWord m0 m1 m2 m3)) :
    commandWord op (fieldOpt c &&& opt) (fieldCnt c &&& cnt)
      (dataWord (lane (fieldData c) 0 &&& m0) (lane (fieldData c) 1 &&& m1) (lane (fieldData c) 2 &&& m2)
        (lane (fieldData c) 3 &&& m3)) = c &&& readMask (fieldOp c) := by
  rw [dataWord_lanes_and, commandWord_eq_and_readMask hop opt cnt _ hm]

/-- Encoding what was decoded clears the bits outside the command's fields and keeps the others (R64, R66, R74). -/
theorem encode_of_decode {c : CmdWord} {i : Instr} (h : decode c = .instr i) : encode i = c &&& readMask (fieldOp c) := by
  unfold decode at h
  split at h
  case h_13 => cases h
  all_goals obtain rfl := Command.instr.inj h
  case h_1 hop | h_8 hop | h_9 hop | h_10 hop | h_11 hop | h_12 hop =>
    exact commandWord_opcode_eq_and_readMask hop (by decide)
  case h_2 hop =>
    have lute := commandWord_eq_and_readMask (op := 0x1) hop (.allOnes 6) 0 0x3F (by decide)
    rw [← index_setWidth_eq_and] at lute
    simpa [-BitVec.reduceAllOnes, encode, Instr.opcode] using lute
  case h_3 hop =>
    have lutd := commandWord_lanes_eq_and_readMask (op := 0x2) hop (.allOnes 6) 0 (.allOnes 8) 0 0 0 (by decide)
    simpa [-BitVec.reduceAllOnes, encode, Instr.opcode] using lutd
  case h_4 hop =>
    have enc3 := commandWord_lanes_eq_and_readMask (op := 0x3) hop (.allOnes 6) (.allOnes 2)
      (.allOnes 8) (.allOnes 8) (.allOnes 8) 0 (by decide)
    simpa [-BitVec.reduceAllOnes, encode, Instr.opcode] using enc3
  case h_5 hop =>
    have dec4 := commandWord_lanes_eq_and_readMask (op := 0x4) hop (.allOnes 6) 0
      (.allOnes 8) (.allOnes 8) (.allOnes 8) (.allOnes 8) (by decide)
    simpa [-BitVec.reduceAllOnes, encode, Instr.opcode] using dec4
  case h_6 hop =>
    have sopen := commandWord_eq_and_readMask (op := 0x5) hop (.allOnes 6) 0 0 (by decide)
    simpa [-BitVec.reduceAllOnes, encode, Instr.opcode] using sopen
  case h_7 hop =>
    have swr := commandWord_lanes_eq_and_readMask (op := 0x6) hop 0 0 (.allOnes 8) 0 0 0 (by decide)
    simpa [-BitVec.reduceAllOnes, encode, Instr.opcode] using swr

/-- The decoder reads back every operand that the encoder wrote (R60, R66). -/
theorem decode_encode (i : Instr) : decode (encode i) = .instr i := by
  cases i with
  | lute opt index =>
    have index_eq : (index.setWidth 32).extractLsb' 0 6 = index := by
      rw [← BitVec.setWidth_eq_extractLsb' (by decide), BitVec.setWidth_setWidth_of_le _ (by decide), BitVec.setWidth_eq]
    simp [decode, encode, Instr.opcode, index_eq]
  | _ => simp [decode, encode, Instr.opcode, lane_dataWord]

/-- A word is canonical just when its command's mask keeps it whole (R74). -/
theorem canonicalWord_iff (c : CmdWord) : canonicalWord c = true ↔ c &&& readMask (fieldOp c) = c := by
  rw [canonicalWord, beq_iff_eq, ← fieldOp, BitVec.eq_of_getElem_eq_iff, BitVec.eq_of_getElem_eq_iff]
  simp

theorem canonicalWord_encode (i : Instr) : canonicalWord (encode i) = true :=
  (canonicalWord_iff _).2 (encode_of_decode (decode_encode i)).symm

/-- Settles O7: every operand comes back; the mask keeps what the command reads, and all of a canonical word. -/
theorem decodeEncodeRoundTrip : Obligations.DecodeEncodeRoundTrip := by
  refine ⟨fun i _ => ⟨decode_encode i, canonicalWord_encode i⟩, fun c i h => ?_⟩
  have masked := encode_of_decode h
  refine ⟨fieldOp_eq_ofNat c ▸ masked, fun canonical => masked.trans ((canonicalWord_iff c).1 canonical)⟩

/-- Settles O9: each word's opcode selects its row of the decoder, and the fields are cut from the word. -/
theorem writtenOutWordsDecode : Obligations.WrittenOutWordsDecode := by
  unfold Obligations.WrittenOutWordsDecode
  decide

end Sys2Proof.Machine
end

section
/-! The assembler's words and its pseudo-instructions (spec/30_encoding.md R74, R75). -/

namespace Sys2Proof.Machine

/-- Every word of a line is some command's encoding (R74). -/
theorem canonicalWord_of_mem_words {l : Asm} {w : CmdWord} (h : w ∈ l.words) : canonicalWord w = true := by
  obtain ⟨i, -, rfl⟩ := List.mem_map.1 h
  exact canonicalWord_encode i

/-- SENC's flags are the line's with ENCODE set (R75). -/
theorem or_encode_eq_ofNat (f : Options) : f ||| 0x01 = BitVec.ofNat 6 (f.toNat / 2 * 2 + 1) := by
  revert f; decide

/-- SDEC's flags are the line's with ENCODE clear (R75). -/
theorem and_not_encode_eq_ofNat (f : Options) : f &&& 0x3E = BitVec.ofNat 6 (f.toNat / 2 * 2) := by
  revert f; decide

/-- Settles O57: a line's words are encodings; the expansions are R75's; each line written out is read and encoded. -/
theorem assemblerWritesCanonicalWords : Obligations.AssemblerWritesCanonicalWords := by
  refine ⟨fun _ _ => canonicalWord_of_mem_words, by decide, fun f => ⟨?_, ?_⟩, fun _ => rfl, fun _ _ _ => ⟨rfl, rfl, rfl⟩,
    by decide, by decide, by decide, by decide, by decide, by decide⟩
  · rw [Asm.expand, or_encode_eq_ofNat]
  · rw [Asm.expand, and_not_encode_eq_ofNat]

end Sys2Proof.Machine
end

section
/-! The invariant of `S`: it holds at reset, and every command keeps it (spec/10_state.md R25, R26, R28, spec/41_quantum.md
R138, spec/42_stream.md R168). -/

namespace Sys2Proof.Machine

/-- Every mode is legal in OPEN (R168). -/
theorem StreamState.ModeLegal.of_opened {S : StreamState} (ho : S.fsm = .opened) : S.ModeLegal :=
  ⟨fun _ => ho, fun hf => by simp [ho] at hf, fun hi => by simp [ho] at hi⟩

/-- With nothing pending only the line counter and the mode are left to check. -/
theorem StreamState.Inv.of_empty {S : StreamState} (hbuf : S.buf = 0) (hcnt : S.bufcnt = 0) (line : S.LineLegal)
    (mode : S.ModeLegal) : S.Inv where
  unusedLanesZero := by rw [StreamState.UnusedLanesZero, hbuf, hcnt]; decide
  countLegal := ⟨fun _ => by rw [hcnt]; decide, fun _ => hcnt, fun _ => hcnt⟩
  lineLegal := line
  modeLegal := mode
  pendingAreSymbols := fun _ k hk => by rw [hcnt] at hk; exact absurd hk (Nat.not_lt_zero k)

theorem StreamState.Inv.reset : StreamState.reset.Inv :=
  .of_empty rfl rfl (by decide) ⟨by decide, by decide, fun _ => rfl⟩

/-- Settles O45: reset's `S` has 0 in every field. -/
theorem invHoldsAtReset : Obligations.InvHoldsAtReset := StreamState.Inv.reset

theorem StreamState.Inv.openStream (opt : Options) : (StreamState.openStream opt).Inv :=
  .of_empty rfl rfl ⟨rfl, fun _ => Nat.zero_le _, fun _ => rfl⟩ (.of_opened rfl)

/-- A write to the lane at `S.BUFCNT` leaves the lanes above it 0 (R25). -/
theorem setLane_toNat_lt {buf : BitVec 24} {n : BitVec 2} (b : Byte) (hn : n.toNat < 3)
    (h : buf.toNat < 2 ^ (8 * n.toNat)) : (setLane buf n b).toNat < 2 ^ (8 * (n.toNat + 1)) := by
  have hb : b.toNat < 256 := b.isLt
  have counts : ∀ m : BitVec 2, m.toNat < 3 → m = 0 ∨ m = 1 ∨ m = 2 := by decide
  rcases counts n hn with rfl | rfl | rfl <;>
    simp [setLane, join3_toNat, lane] at h ⊢ <;> omega

/-- Only a decode stream that is not suspended fails (R159, R161). -/
theorem StreamState.Inv.enterFailed {S : StreamState} (h : S.Inv) (hs : S.susp = false) (he : S.encodes = false) :
    S.enterFailed.Inv where
  unusedLanesZero := h.unusedLanesZero
  countLegal := by
    obtain ⟨enc, susp, -⟩ := h.countLegal
    exact ⟨enc, susp, fun hf => by simp at hf⟩
  lineLegal := h.lineLegal
  modeLegal := ⟨fun hs' => by simp [hs] at hs', fun _ => he, fun hi => by simp at hi⟩
  pendingAreSymbols := h.pendingAreSymbols

/-- Four symbols more on a line that they do not fill (R28, R155). -/
theorem StreamState.LineLegal.addLine {S : StreamState} (h : S.LineLegal) (he : S.encodes = true)
    (notFull : ¬ (optBreakLines S.opt = true ∧ 76 ≤ (S.line + 4).toNat)) : S.addLine.LineLegal := by
  obtain ⟨fours, -, -⟩ := h
  have next : (S.line + 4).toNat = (S.line.toNat + 4) % 128 := by bv_omega
  refine ⟨?_, fun hb => ?_, fun hd => ?_⟩ <;> rw [addLine_line]
  · omega
  · have : ¬ 76 ≤ (S.line + 4).toNat := fun full => notFull ⟨hb, full⟩
    omega
  · exact absurd (he.symm.trans hd) (by decide)

section Opened
variable {S : StreamState} (h : S.Inv) (ho : S.fsm = .opened)
include h ho

/-- In OPEN the invariant does not read `S.POS`. -/
theorem StreamState.Inv.countByte : S.countByte.Inv where
  unusedLanesZero := h.unusedLanesZero
  countLegal := h.countLegal
  lineLegal := h.lineLegal
  modeLegal := .of_opened ho
  pendingAreSymbols := h.pendingAreSymbols

/-- A byte is buffered while its count is legal; in the decode direction it is a symbol (R26, R155, R157). -/
theorem StreamState.Inv.pushByte {b : Byte} (hs : S.susp = false) (room : S.bufcnt.toNat < 3)
    (encRoom : S.encodes = true → S.bufcnt.toNat < 2) (symbol : S.encodes = false → S.isSymbol b) :
    (S.pushByte b).Inv := by
  have count : (S.pushByte b).bufcnt.toNat = S.bufcnt.toNat + 1 := by rw [pushByte_bufcnt]; bv_omega
  refine ⟨?_, ⟨fun he => ?_, fun hs' => ?_, fun hf => ?_⟩, h.lineLegal, .of_opened ho, fun he k hk => ?_⟩
  · rw [UnusedLanesZero, count, pushByte_buf]
    exact setLane_toNat_lt b room h.unusedLanesZero
  · rw [count]
    exact encRoom he
  · rw [pushByte_susp, hs] at hs'
    cases hs'
  · rw [pushByte_fsm, ho] at hf
    simp at hf
  · rw [count] at hk
    rw [pushByte_buf, lane_setLane S.buf S.bufcnt b room k (by omega)]
    split_ifs with new
    · exact symbol he
    · exact h.pendingAreSymbols he k (by omega)

/-- SWR in OPEN keeps the invariant. -/
theorem SwrCase.inv {b : Byte} {S' : StreamState} {r : Rsp} (hr : SwrCase b S S' r) : S'.Inv := by
  have counted := h.countByte ho
  cases hr with
  | suspended _ => exact counted
  | buffered hs he h3 =>
    obtain ⟨enc, -, -⟩ := h.countLegal
    have two := enc he
    exact (h.pushByte ho hs (by omega) (fun _ => by bv_omega) (by simp [he])).countByte ho
  | encodedWithNewline _ he _ _ _ =>
    exact .of_empty rfl rfl ⟨rfl, fun _ => Nat.zero_le _, fun _ => rfl⟩ (.of_opened ho)
  | encoded _ he _ notFull => exact .of_empty rfl rfl (h.lineLegal.addLine he notFull) (.of_opened ho)
  | symbolBuffered hs he hb h3 =>
    exact counted.pushByte ho hs h3 (fun hd => absurd (he.symm.trans hd) (by decide)) fun _ => hb
  | decoded _ _ _ _ => exact .of_empty rfl rfl h.lineLegal (.of_opened ho)
  | space _ _ _ => exact counted
  | invalid hs he _ => exact h.enterFailed hs he

end Opened

/-- A flush that answers OK leaves nothing pending, and the line as it is (R161). -/
theorem FlushCase.leaves_empty {S S' : StreamState} {r : Rsp} (hr : FlushCase S S' r) (h : S.Inv) :
    S'.buf = 0 ∧ S'.bufcnt = 0 ∧ S'.LineLegal := by
  cases hr with
  | nothing h0 =>
    have lanes : S.buf.toNat < 2 ^ (8 * 0) := by simpa [h0] using h.unusedLanesZero
    exact ⟨BitVec.eq_of_toNat_eq (Nat.lt_one_iff.1 lanes), h0, h.lineLegal⟩
  | padded _ _ => exact ⟨rfl, rfl, h.lineLegal⟩


/-- Every command keeps the invariant. -/
theorem CommandCase.inv {cmd : Command} {S S' : StreamState} {r : Rsp} (hr : CommandCase cmd S S' r) (h : S.Inv) :
    S'.Inv := by
  cases hr with
  | illegal _ => exact h
  | stateless _ _ => exact h
  | sstat => exact h
  | gated _ _ => exact h
  | sopen opt => exact .openStream opt
  | swr ho hr => exact hr.inv h ho
  | sres ho =>
    obtain ⟨enc, -, idle⟩ := h.countLegal
    exact ⟨h.unusedLanesZero, ⟨enc, fun hs => by simp at hs, idle⟩, h.lineLegal, .of_opened ho,
      h.pendingAreSymbols⟩
  | sflush ho hr =>
    obtain ⟨buf, cnt, line⟩ := hr.leaves_empty h
    exact .of_empty buf cnt line (.of_opened (hr.fsm_eq.trans ho))
  | ssusp ho hr =>
    obtain ⟨buf, cnt, line⟩ := hr.leaves_empty h
    exact .of_empty buf cnt line (.of_opened (hr.fsm_eq.trans ho))
  | sclose ho hr =>
    obtain ⟨buf, cnt, line⟩ := hr.leaves_empty h
    exact .of_empty buf cnt line ⟨fun hs => by simp at hs, fun hf => by simp at hf, fun hi => by simp at hi⟩
  | badPadding _ ho h0 he =>
    obtain ⟨-, susp, -⟩ := h.countLegal
    exact h.enterFailed (Bool.eq_false_iff.2 fun hs => h0 (susp hs)) he

/-- Settles O46: a step changes nothing, resets, or runs a command, which keeps the invariant case by case. -/
theorem stepKeepsInv : Obligations.StepKeepsInv := by
  intro s t h hstep
  rcases step_cases hstep with ⟨-, rfl⟩ | ⟨rest, -, rfl⟩ | ⟨c, rest, -, rfl⟩
  · exact h
  · exact StreamState.Inv.reset
  · exact (answerWord_case c s.stream).inv h

end Sys2Proof.Machine
end

section
/-! A run of the block over command words that all answer OK: where it leaves `S` and what it outputs (spec/10_state.md R42,
spec/42_stream.md R169). -/

namespace Sys2Proof.Machine

/-- The words `cs`, issued in `S`, all answer OK, leave `S'` and output `out`. -/
structure RunsTo (cs : List CmdWord) (S S' : StreamState) (out : List Byte) : Prop where
  after : streamAfter cs S = S'
  allOk : ∀ r ∈ answers cs S, r.rstat = .ok
  output : outputStream cs (answers cs S) = out

theorem RunsTo.nil (S : StreamState) : RunsTo [] S S [] := ⟨rfl, by simp [answers], rfl⟩

theorem streamAfter_append (cs ds : List CmdWord) (S : StreamState) :
    streamAfter (cs ++ ds) S = streamAfter ds (streamAfter cs S) := List.foldl_append

/-- Every word has its response, so the responses of a later run do not mix with those of an earlier one (R42, R71). -/
theorem outputStream_append (cs ds : List CmdWord) (S : StreamState) (rs : List Rsp) :
    outputStream (cs ++ ds) (answers cs S ++ rs) = outputStream cs (answers cs S) ++ outputStream ds rs := by
  induction cs generalizing S with
  | nil => rfl
  | cons c cs ih => simp [answers, outputStream, ih]

theorem answers_length (cs : List CmdWord) (S : StreamState) : (answers cs S).length = cs.length := by
  induction cs generalizing S with
  | nil => rfl
  | cons c cs ih => simp [answers, ih]

/-- Runs one after the other are one run, their outputs one after the other. -/
theorem RunsTo.append {cs ds : List CmdWord} {S S₁ S' : StreamState} {out out' : List Byte} (h : RunsTo cs S S₁ out)
    (h' : RunsTo ds S₁ S' out') : RunsTo (cs ++ ds) S S' (out ++ out') where
  after := by rw [streamAfter_append, h.after, h'.after]
  allOk := by
    rw [answers_append, h.after]
    intro r hr
    exact (List.mem_append.1 hr).elim (h.allOk r) (h'.allOk r)
  output := by rw [answers_append, outputStream_append, h.after, h.output, h'.output]

/-- A run without output before another. -/
theorem RunsTo.silent_append {cs ds : List CmdWord} {S S₁ S' : StreamState} {out : List Byte} (h : RunsTo cs S S₁ [])
    (h' : RunsTo ds S₁ S' out) : RunsTo (cs ++ ds) S S' out := h.append h'

/-- The run of one command that emits bytes: they are output-stream bytes if the command is one of R72's. -/
theorem runsTo_of_case {i : Instr} {S S' : StreamState} {xs : List Byte} (h : CommandCase (.instr i) S S' (emit xs))
    (hlen : xs.length ≤ 8) : RunsTo [encode i] S S' (if streamOutput (encode i) then xs else []) := by
  have answered : answerWord (encode i) S = (S', emit xs) := by
    rw [answerWord_of_instr (decode_encode i), h.answer_eq]
  refine ⟨?_, ?_, ?_⟩
  · simp [streamAfter, answered]
  · simp [answers, answered]
  · simp [answers, outputStream, answered, emit_bytes xs hlen]

theorem runsTo_sopen (o : Options) (S : StreamState) : RunsTo [encode (.sopen o)] S (StreamState.openStream o) [] := by
  simpa [streamOutput, decode_encode] using runsTo_of_case (.sopen o S) (by simp)

theorem runsTo_swr {b : Byte} {S S' : StreamState} {xs : List Byte} (ho : S.fsm = .opened) (h : SwrCase b S S' (emit xs))
    (hlen : xs.length ≤ 8) : RunsTo [encode (.swr b)] S S' xs := by
  simpa [streamOutput, decode_encode] using runsTo_of_case (.swr ho h) hlen

theorem runsTo_sclose {S S' : StreamState} {xs : List Byte} (ho : S.fsm = .opened) (h : FlushCase S S' (emit xs))
    (hlen : xs.length ≤ 8) : RunsTo [encode .sclose] S { S' with fsm := .closed, susp := false } xs := by
  simpa [streamOutput, decode_encode] using runsTo_of_case (.sclose ho h) hlen

/-- One SWR a byte (R169). -/
def swrWords (d : List Byte) : List CmdWord := d.map fun b => encode (.swr b)

@[simp] theorem swrWords_nil : swrWords [] = [] := rfl

theorem swrWords_append (d e : List Byte) : swrWords (d ++ e) = swrWords d ++ swrWords e := List.map_append

theorem streamCommands_eq (o : Options) (d : List Byte) :
    streamCommands o d = [encode (.sopen o)] ++ (swrWords d ++ [encode .sclose]) := rfl

/-- A run of a stream's bytes and its close from the opened stream is a run of the stream from any state (R152, R169). -/
theorem streamRun_of_runsTo {o : Options} {d out : List Byte} {S' : StreamState}
    (h : RunsTo (swrWords d ++ [encode .sclose]) (StreamState.openStream o) S' out) (s : State) :
    streamRun s o d = out ∧ (hostResponses s (streamCommands o d)).map Rsp.rstat = List.replicate (d.length + 2) .ok := by
  have run := (runsTo_sopen o s.stream).append h
  rw [← streamCommands_eq] at run
  rw [streamRun, hostResponses_eq]
  refine ⟨run.output, List.eq_replicate_iff.2 ⟨?_, fun st hst => ?_⟩⟩
  · rw [List.length_map, answers_length]; simp [streamCommands]
  · obtain ⟨r, hr, rfl⟩ := List.mem_map.1 hst
    exact run.allOk r hr

end Sys2Proof.Machine
end

section
/-! An open stream by its pending bytes, and each SWR and SCLOSE on it (spec/42_stream.md R155 to R158, R165). -/

namespace Sys2Proof.Machine

/-- The stream is open under the options `o`, not suspended, with the bytes `p` pending and the line counter at `line`. -/
structure Pending (o : Options) (p : List Byte) (line : BitVec 7) (S : StreamState) : Prop where
  opened : S.fsm = .opened
  active : S.susp = false
  opt_eq : S.opt = o
  count : S.bufcnt.toNat = p.length
  lanes : ∀ k < p.length, lane S.buf k = p.getD k 0
  line_eq : S.line = line

theorem pending_openStream (o : Options) : Pending o [] 0 (StreamState.openStream o) :=
  ⟨rfl, rfl, rfl, rfl, by simp, rfl⟩

section Steps
variable {o : Options} {p : List Byte} {line : BitVec 7} {S : StreamState} {b : Byte}

theorem Pending.encodes_eq (h : Pending o p line S) : S.encodes = optEncode o := by
  rw [S.encodes_eq, h.opt_eq]

theorem Pending.alphabet_eq (h : Pending o p line S) : S.alphabet = alphaSel o := by
  rw [S.alphabet_eq, h.opt_eq]

theorem Pending.isSymbol (h : Pending o p line S) (hb : isSymbolOf (alphaSel o) b) : S.isSymbol b := by
  rwa [StreamState.isSymbol, h.alphabet_eq]

/-- `S.POS` plays no part. -/
theorem Pending.countByte (h : Pending o p line S) : Pending o p line S.countByte :=
  ⟨h.opened, h.active, h.opt_eq, h.count, h.lanes, h.line_eq⟩

/-- The next byte goes to the next lane (R155, R157). -/
theorem Pending.lanes_setLane (h : Pending o p line S) (room : p.length < 3) (b : Byte) :
    ∀ k < p.length + 1, lane (setLane S.buf S.bufcnt b) k = (p ++ [b]).getD k 0 := by
  intro k hk
  rw [lane_setLane S.buf S.bufcnt b (h.count ▸ room) k (by omega), h.count]
  rcases Nat.lt_or_ge k p.length with old | new
  · rw [if_neg old.ne, h.lanes k old, List.getD_append _ _ _ _ old]
  · obtain rfl : k = p.length := by omega
    simp

theorem Pending.pushByte (h : Pending o p line S) (room : p.length < 3) (b : Byte) :
    Pending o (p ++ [b]) line (S.pushByte b) where
  opened := h.opened
  active := h.active
  opt_eq := h.opt_eq
  count := by
    have count := h.count
    rw [StreamState.pushByte_bufcnt, List.length_append, List.length_singleton]
    bv_omega
  lanes := by
    rw [List.length_append, List.length_singleton]
    exact h.lanes_setLane room b
  line_eq := h.line_eq

/-- A byte that does not complete the quantum: in the encode direction any, in the decode direction a symbol. -/
theorem Pending.exists_runsTo_buffered (h : Pending o p line S)
    (fits : optEncode o = true ∧ p.length < 2 ∨ optEncode o = false ∧ isSymbolOf (alphaSel o) b ∧ p.length < 3) :
    ∃ S', RunsTo (swrWords [b]) S S' [] ∧ Pending o (p ++ [b]) line S' := by
  have count := h.count
  rcases fits with ⟨he, room⟩ | ⟨he, hb, room⟩
  · exact ⟨_, runsTo_swr h.opened (.buffered h.active (h.encodes_eq.trans he) (by bv_omega)) (by simp),
      (h.pushByte (by omega) b).countByte⟩
  · have buffered := SwrCase.symbolBuffered h.active (h.encodes_eq.trans he) (h.isSymbol hb) (by omega)
    exact ⟨_, runsTo_swr h.opened buffered (by simp),
      h.countByte.pushByte room b⟩

/-- Whitespace in the decode direction (R158). -/
theorem Pending.exists_runsTo_space (h : Pending o p line S) (he : optEncode o = false)
    (hb : byteClass (alphaSel o) b = .ws) : ∃ S', RunsTo (swrWords [b]) S S' [] ∧ Pending o p line S' := by
  rw [← h.alphabet_eq] at hb
  exact ⟨_, runsTo_swr h.opened (.space h.active (h.encodes_eq.trans he) hb) (by simp), h.countByte⟩

/-- The fourth symbol completes the quantum (R157). -/
theorem Pending.exists_runsTo_decoded {y0 y1 y2 y3 : Byte} (h : Pending o [y0, y1, y2] line S) (he : optEncode o = false)
    (hb : isSymbolOf (alphaSel o) y3) :
    ∃ S', RunsTo (swrWords [y3]) S S' (dec4to3 (alphaSel o) y0 y1 y2 y3) ∧ Pending o [] line S' := by
  have l0 : lane S.buf 0 = y0 := h.lanes 0 (by simp)
  have l1 : lane S.buf 1 = y1 := h.lanes 1 (by simp)
  have l2 : lane S.buf 2 = y2 := h.lanes 2 (by simp)
  have decoded := SwrCase.decoded (b := y3) h.active (h.encodes_eq.trans he) (h.isSymbol hb) (by simp [h.count])
  rw [l0, l1, l2, h.alphabet_eq] at decoded
  refine ⟨_, runsTo_swr h.opened decoded ?_, ⟨h.opened, h.active, h.opt_eq, rfl, by simp, h.line_eq⟩⟩
  rw [dec4to3_length]
  split_ifs <;> decide

/-- The third byte completes the quantum, with a newline when it fills the line (R155). -/
theorem Pending.exists_runsTo_encoded {b0 b1 b2 : Byte} (h : Pending o [b0, b1] line S) (he : optEncode o = true) :
    ∃ S', RunsTo (swrWords [b2]) S S' (enc3to4 (alphaSel o) b0 b1 b2 3 ++
        if optBreakLines o = true ∧ 76 ≤ (line + 4).toNat then [Config.newline] else []) ∧
      Pending o [] (if optBreakLines o = true ∧ 76 ≤ (line + 4).toNat then 0 else line + 4) S' := by
  have lanes := h.lanes_setLane (by simp) b2
  have l0 : lane (setLane S.buf S.bufcnt b2) 0 = b0 := lanes 0 (by simp)
  have l1 : lane (setLane S.buf S.bufcnt b2) 1 = b1 := lanes 1 (by simp)
  have l2 : lane (setLane S.buf S.bufcnt b2) 2 = b2 := lanes 2 (by simp)
  have quantum : completedQuantum S b2 = enc3to4 (alphaSel o) b0 b1 b2 3 := by
    rw [completedQuantum, l0, l1, l2, h.alphabet_eq]
  have complete : ¬ (S.bufcnt + 1).toNat < 3 := by
    have count : S.bufcnt.toNat = 2 := h.count
    bv_omega
  have enc := h.encodes_eq.trans he
  obtain rfl := h.opt_eq
  obtain rfl := h.line_eq
  split_ifs with full
  · have encoded := SwrCase.encodedWithNewline (b := b2) h.active enc complete full.1 full.2
    rw [quantum] at encoded
    exact ⟨_, runsTo_swr h.opened encoded (by simp [enc3to4_length]), ⟨h.opened, h.active, rfl, rfl, by simp, rfl⟩⟩
  · have encoded := SwrCase.encoded (b := b2) h.active enc complete full
    rw [quantum] at encoded
    rw [List.append_nil]
    exact ⟨_, runsTo_swr h.opened encoded (by simp [enc3to4_length]), ⟨h.opened, h.active, rfl, rfl, by simp, rfl⟩⟩

/-- SCLOSE with nothing pending, in either direction (R161, R165). -/
theorem Pending.exists_runsTo_sclose (h : Pending o [] line S) : ∃ S', RunsTo [encode .sclose] S S' [] :=
  ⟨_, runsTo_sclose h.opened (.nothing (BitVec.eq_of_toNat_eq h.count)) (by simp)⟩

/-- A byte that the count leaves out does not enter the quantum (R130). -/
theorem enc3to4_congr (a : Alphabet) (b0 : Byte) {b1 b1' b2 b2' : Byte} {n : BitVec 2} (h1 : 2 ≤ n.toNat → b1 = b1')
    (h2 : 3 ≤ n.toNat → b2 = b2') : enc3to4 a b0 b1 b2 n = enc3to4 a b0 b1' b2' n := by
  have second : (if 2 ≤ n.toNat then b1 else 0) = if 2 ≤ n.toNat then b1' else 0 := ite_congr rfl h1 fun _ => rfl
  have third : (if 3 ≤ n.toNat then b2 else 0) = if 3 ≤ n.toNat then b2' else 0 := ite_congr rfl h2 fun _ => rfl
  simp only [enc3to4, second, third]

/-- The quantum of the pending bytes is that of the host's last stride (R161, R202). -/
theorem Pending.encodePending_eq (h : Pending o p line S) (hp : p ≠ []) :
    S.encodePending S.bufcnt = strideQuantum (alphaSel o) p := by
  have positive : 0 < p.length := List.length_pos_of_ne_nil hp
  have count := h.count
  have size : BitVec.ofNat 2 (min p.length 3) = S.bufcnt := by bv_omega
  rw [StreamState.encodePending, strideQuantum, h.alphabet_eq, h.lanes 0 positive, size]
  exact enc3to4_congr _ _ (fun hn => h.lanes 1 (by omega)) fun hn => h.lanes 2 (by omega)

/-- SCLOSE in the encode direction pads what is pending (R161, R165). -/
theorem Pending.exists_runsTo_sclose_padded (h : Pending o p line S) (he : optEncode o = true) (hp : p ≠ []) :
    ∃ S', RunsTo [encode .sclose] S S' (strideQuantum (alphaSel o) p) := by
  have pending : S.bufcnt ≠ 0 := fun h0 => hp (List.eq_nil_of_length_eq_zero (by rw [← h.count, h0]; rfl))
  have padded := FlushCase.padded pending (h.encodes_eq.trans he)
  rw [h.encodePending_eq hp] at padded
  exact ⟨_, runsTo_sclose h.opened padded (by rw [strideQuantum_length _ hp]; decide)⟩

end Steps

end Sys2Proof.Machine
end

section
/-! An encode stream's output is the loop of `HostEncode`, its newlines written a stride earlier (spec/42_stream.md R169,
spec/90_conflicts.md C3). -/

namespace Sys2Proof.Machine

/-- The newline that a stream writes after its last quantum where the whole-buffer encode writes none, the `line` symbols
before the bytes counted (C3). -/
def finalNewline (brk : Bool) (line n : Nat) : List Byte :=
  if brk = true ∧ 0 < n ∧ n % 3 = 0 ∧ (line + 4 * (n / 3)) % 76 = 0 then [Config.newline] else []

theorem finalNewline_zero (o : Options) (n : Nat) : finalNewline (optBreakLines o) 0 n = trailingNewline o n := by
  rw [finalNewline, trailingNewline]
  refine ite_congr (propext ?_) (fun _ => rfl) fun _ => rfl
  refine and_congr_right fun _ => and_congr_right fun _ => and_congr_right fun _ => ?_
  rw [show 0 + 4 * (n / 3) = 4 * n / 3 by omega]

/-- What a stream outputs for the bytes `d` from a line of `line` symbols. -/
def streamedEncode (a : Alphabet) (brk : Bool) (line : Nat) (d : List Byte) : List Byte :=
  hostEncodeLoop a brk line d ++ finalNewline brk line d.length

/-- A full line's newline stands before the next stride, if there is one (R202). -/
theorem hostEncodeLoop_full_line (a : Alphabet) {d : List Byte} (h : d ≠ []) :
    hostEncodeLoop a true 76 d = Config.newline :: hostEncodeLoop a true 0 d := by
  rw [hostEncodeLoop_eq_stride a true 76 h, hostEncodeLoop_eq_stride a true 0 h]
  rfl

/-- After a quantum that fills the line the stream has written the newline that the host still owes. -/
theorem newline_streamedEncode (a : Alphabet) (d : List Byte) :
    Config.newline :: streamedEncode a true 0 d = hostEncodeLoop a true 76 d ++ finalNewline true 72 (d.length + 3) := by
  rcases eq_or_ne d [] with rfl | hd
  · rfl
  · have positive : 0 < d.length := List.length_pos_of_ne_nil hd
    rw [hostEncodeLoop_full_line a hd, streamedEncode, List.cons_append]
    congr 2
    simp only [finalNewline]
    refine ite_congr (propext (and_congr_right fun _ => ?_)) (fun _ => rfl) fun _ => rfl
    omega

/-- Before the line is full a whole stride is four symbols more on it. -/
theorem finalNewline_stride {brk : Bool} {line : Nat} (room : brk = true → line < 72) (n : Nat) :
    finalNewline brk line (n + 3) = finalNewline brk (line + 4) n := by
  simp only [finalNewline]
  refine ite_congr (propext (and_congr_right fun hb => ?_)) (fun _ => rfl) fun _ => rfl
  have := room hb
  omega

/-- A line with room for a quantum is not broken before it (R202). -/
theorem breakIfFull_of_room {brk : Bool} {line : Nat} (room : brk = true → line ≤ 72) :
    breakIfFull brk line = [] ∧ lineAfterBreak brk line = line := by
  rcases breakIfFull_cases brk line with ⟨hb, full, -, -⟩ | ⟨-, e, e'⟩
  · have := room hb
    omega
  · exact ⟨e, e'⟩

/-- A whole stride, as the stream outputs it: its quantum, with the newline in the same response (R155). -/
theorem streamedEncode_stride (a : Alphabet) {brk : Bool} {line : Nat} (legal : brk = true → line % 4 = 0 ∧ line ≤ 72)
    (b0 b1 b2 : Byte) (rest : List Byte) :
    streamedEncode a brk line (b0 :: b1 :: b2 :: rest) = enc3to4 a b0 b1 b2 3 ++
      if brk = true ∧ 76 ≤ line + 4 then Config.newline :: streamedEncode a brk 0 rest
      else streamedEncode a brk (line + 4) rest := by
  obtain ⟨noBreak, sameLine⟩ := breakIfFull_of_room fun hb => (legal hb).2
  rw [streamedEncode, hostEncodeLoop, noBreak, sameLine, List.nil_append, List.append_assoc]
  congr 1
  split_ifs with full
  · obtain ⟨rfl, hline⟩ := full
    obtain rfl : line = 72 := by have := legal rfl; omega
    exact (newline_streamedEncode a rest).symm
  · rw [streamedEncode, ← finalNewline_stride (fun hb => ?_)]
    · rfl
    · have := legal hb
      have : ¬ 76 ≤ line + 4 := fun hl => full ⟨hb, hl⟩
      omega

/-- A last group of one or two bytes is one padded quantum (R131, R202). -/
theorem streamedEncode_partial (a : Alphabet) {brk : Bool} {line : Nat} (legal : brk = true → line ≤ 72)
    {d : List Byte} (hd : d ≠ []) (short : d.length < 3) : streamedEncode a brk line d = strideQuantum a d := by
  have positive : 0 < d.length := List.length_pos_of_ne_nil hd
  obtain ⟨noBreak, -⟩ := breakIfFull_of_room legal
  rw [streamedEncode, hostEncodeLoop_eq_stride a brk line hd, noBreak, List.drop_eq_nil_of_le (by omega), finalNewline,
    if_neg (by omega)]
  simp

section Encode
variable {o : Options} {counter : BitVec 7} {S : StreamState} (h : Pending o [] counter S) (he : optEncode o = true)
include h he

/-- A last group of one or two bytes is buffered, and SCLOSE pads it (R155, R165). -/
theorem Pending.exists_runsTo_partial : ∀ {d : List Byte}, d ≠ [] → d.length < 3 →
    ∃ S', RunsTo (swrWords d ++ [encode .sclose]) S S' (strideQuantum (alphaSel o) d)
  | [b0], _, _ => by
    obtain ⟨S₁, run₁, h₁⟩ := h.exists_runsTo_buffered (b := b0) (.inl ⟨he, by simp⟩)
    obtain ⟨S', close⟩ := h₁.exists_runsTo_sclose_padded he (by simp)
    exact ⟨S', run₁.silent_append close⟩
  | [b0, b1], _, _ => by
    obtain ⟨S₁, run₁, h₁⟩ := h.exists_runsTo_buffered (b := b0) (.inl ⟨he, by simp⟩)
    obtain ⟨S₂, run₂, h₂⟩ := h₁.exists_runsTo_buffered (b := b1) (.inl ⟨he, by simp⟩)
    obtain ⟨S', close⟩ := h₂.exists_runsTo_sclose_padded he (by simp)
    exact ⟨S', (run₁.silent_append run₂).silent_append close⟩

/-- A whole stride outputs its quantum, with a newline when that fills the line (R155). -/
theorem Pending.exists_runsTo_stride (b0 b1 b2 : Byte) :
    ∃ S', RunsTo (swrWords [b0, b1, b2]) S S' (enc3to4 (alphaSel o) b0 b1 b2 3 ++
        if optBreakLines o = true ∧ 76 ≤ (counter + 4).toNat then [Config.newline] else []) ∧
      Pending o [] (if optBreakLines o = true ∧ 76 ≤ (counter + 4).toNat then 0 else counter + 4) S' := by
  obtain ⟨S₁, run₁, h₁⟩ := h.exists_runsTo_buffered (b := b0) (.inl ⟨he, by simp⟩)
  obtain ⟨S₂, run₂, h₂⟩ := h₁.exists_runsTo_buffered (b := b1) (.inl ⟨he, by simp⟩)
  obtain ⟨S₃, run₃, h₃⟩ := h₂.exists_runsTo_encoded (b2 := b2) he
  exact ⟨S₃, (run₁.silent_append run₂).silent_append run₃, h₃⟩

/-- The bytes of an encode stream and its close, from an empty buffer, output `streamedEncode`; the line counter is the line
where it matters, with line breaks. -/
theorem Pending.exists_runsTo_streamedEncode (d : List Byte) {line : Nat}
    (legal : optBreakLines o = true → counter.toNat = line ∧ line % 4 = 0 ∧ line ≤ 72) :
    ∃ S', RunsTo (swrWords d ++ [encode .sclose]) S S' (streamedEncode (alphaSel o) (optBreakLines o) line d) := by
  induction d using stride_induction generalizing line S counter with
  | nil => simpa [streamedEncode, finalNewline] using h.exists_runsTo_sclose
  | stride d hd ih =>
    rcases Nat.lt_or_ge d.length 3 with short | long
    · rw [streamedEncode_partial _ (fun hb => (legal hb).2.2) hd short]
      exact h.exists_runsTo_partial he hd short
    · obtain ⟨b0, b1, b2, rest, rfl⟩ : ∃ b0 b1 b2 rest, d = b0 :: b1 :: b2 :: rest := by
        match d, long with
        | b0 :: b1 :: b2 :: rest, _ => exact ⟨b0, b1, b2, rest, rfl⟩
      obtain ⟨S₁, stride, h₁⟩ := h.exists_runsTo_stride he b0 b1 b2
      have counted (hb : optBreakLines o = true) : (counter + 4).toNat = line + 4 := by
        have := legal hb
        bv_omega
      have sameTest : optBreakLines o = true ∧ 76 ≤ (counter + 4).toNat ↔ optBreakLines o = true ∧ 76 ≤ line + 4 :=
        and_congr_right fun hb => by rw [counted hb]
      simp only [sameTest] at stride h₁
      have words : swrWords (b0 :: b1 :: b2 :: rest) = swrWords [b0, b1, b2] ++ swrWords rest :=
        swrWords_append [b0, b1, b2] rest
      rw [streamedEncode_stride _ fun hb => (legal hb).2]
      split_ifs at stride h₁ ⊢ with full
      · obtain ⟨S', run⟩ := ih h₁ (line := 0) fun _ => ⟨rfl, rfl, by decide⟩
        exact ⟨S', by simpa [words] using stride.append run⟩
      · obtain ⟨S', run⟩ := ih h₁ (line := line + 4) fun hb => by
          have := legal hb
          have : ¬ 76 ≤ line + 4 := fun hl => full ⟨hb, hl⟩
          exact ⟨counted hb, by omega, by omega⟩
        exact ⟨S', by simpa [words] using stride.append run⟩

end Encode

/-- An encode stream run from any state, whatever its other options: R169's encode half. -/
theorem streamRun_encode (s : State) (d : List Byte) {o : Options} (he : optEncode o = true) :
    streamRun s o d = hostEncodePlain d o ++ trailingNewline o d.length ∧
    (hostResponses s (streamCommands o d)).map Rsp.rstat = List.replicate (d.length + 2) .ok := by
  obtain ⟨S', run⟩ := (pending_openStream o).exists_runsTo_streamedEncode he d (line := 0)
    fun _ => ⟨rfl, rfl, by decide⟩
  rw [streamedEncode, finalNewline_zero] at run
  exact streamRun_of_runsTo run s

/-- Settles O59: with GZIP clear the whole-buffer encode is the loop. -/
theorem streamEncodeEqualsWholeBuffer : Obligations.StreamEncodeEqualsWholeBuffer := by
  intro p s d o he hz
  rw [hostEncode_of_not_gzip p s d hz]
  exact streamRun_encode s d he

end Sys2Proof.Machine
end

section
/-! A decode stream takes in what `HostEncode` writes (spec/42_stream.md R156 to R158, R169). -/

namespace Sys2Proof.Machine

section Decode
variable {o : Options} {line : BitVec 7} {S : StreamState} (h : Pending o [] line S) (he : optEncode o = false)
include h he

/-- Four symbols, from an empty buffer: the fourth outputs their bytes, `=` among them or not (R157). -/
theorem Pending.exists_runsTo_quantum {y0 y1 y2 y3 : Byte} (hy : ∀ y ∈ [y0, y1, y2, y3], isSymbolOf (alphaSel o) y) :
    ∃ S', RunsTo (swrWords [y0, y1, y2, y3]) S S' (dec4to3 (alphaSel o) y0 y1 y2 y3) ∧ Pending o [] line S' := by
  simp only [List.forall_mem_cons] at hy
  obtain ⟨hy0, hy1, hy2, hy3, -⟩ := hy
  obtain ⟨S₁, run₁, h₁⟩ := h.exists_runsTo_buffered (.inr ⟨he, hy0, by simp⟩)
  obtain ⟨S₂, run₂, h₂⟩ := h₁.exists_runsTo_buffered (.inr ⟨he, hy1, by simp⟩)
  obtain ⟨S₃, run₃, h₃⟩ := h₂.exists_runsTo_buffered (.inr ⟨he, hy2, by simp⟩)
  obtain ⟨S₄, run₄, h₄⟩ := h₃.exists_runsTo_decoded he hy3
  exact ⟨S₄, ((run₁.silent_append run₂).silent_append run₃).silent_append run₄, h₄⟩

/-- `BreakIfFull()` writes only whitespace, which the stream discards (R158). -/
theorem Pending.exists_runsTo_breakIfFull (brk : Bool) (hostLine : Nat) :
    ∃ S', RunsTo (swrWords (breakIfFull brk hostLine)) S S' [] ∧ Pending o [] line S' := by
  rcases breakIfFull_cases brk hostLine with ⟨-, -, e, -⟩ | ⟨-, e, -⟩ <;> rw [e]
  · exact h.exists_runsTo_space he (byteClass_newline _)
  · exact ⟨S, .nil S, h⟩

/-- The stream gives the encoded bytes back stride by stride, and nothing is pending after them. -/
theorem Pending.exists_runsTo_hostEncodeLoop (brk : Bool) (hostLine : Nat) (d : List Byte) :
    ∃ S', RunsTo (swrWords (hostEncodeLoop (alphaSel o) brk hostLine d)) S S' d ∧ Pending o [] line S' := by
  induction d using stride_induction generalizing hostLine S with
  | nil => exact ⟨S, .nil S, h⟩
  | stride d hd ih =>
    obtain ⟨y0, y1, y2, y3, quantum, -, bytes⟩ := exists_strideQuantum_eq (alphaSel o) hd
    have symbols : ∀ y ∈ [y0, y1, y2, y3], isSymbolOf (alphaSel o) y := fun y hy =>
      isSymbolOf_of_mem_enc3to4 (quantum ▸ hy : y ∈ strideQuantum (alphaSel o) d)
    obtain ⟨S₁, run₁, h₁⟩ := h.exists_runsTo_breakIfFull he brk hostLine
    obtain ⟨S₂, run₂, h₂⟩ := h₁.exists_runsTo_quantum he symbols
    obtain ⟨S₃, run₃, h₃⟩ := ih h₂ (lineAfterBreak brk hostLine + 4)
    rw [← quantum, bytes] at run₂
    have run := (run₁.silent_append run₂).append run₃
    rw [← swrWords_append, ← swrWords_append, ← hostEncodeLoop_eq_stride _ brk hostLine hd,
      List.take_append_drop] at run
    exact ⟨S₃, run, h₃⟩

end Decode

/-- Settles O60: the stream takes in the loop's output, and has nothing pending when it is closed. -/
theorem streamDecodeInvertsHostEncode : Obligations.StreamDecodeInvertsHostEncode := by
  intro p s d o o' _ hz hd ha
  rw [hostEncode_of_not_gzip p s d hz, ← ha]
  obtain ⟨S₁, run, h₁⟩ := (pending_openStream o').exists_runsTo_hostEncodeLoop hd (optBreakLines o) 0 d
  obtain ⟨S', close⟩ := h₁.exists_runsTo_sclose
  have closed := run.append close
  rw [List.append_nil] at closed
  exact streamRun_of_runsTo closed s

end Sys2Proof.Machine
end

section
/-! One quantum, both ways (spec/41_quantum.md R130, R131, R134 to R137, spec/90_conflicts.md C1). -/

namespace Sys2Proof.Machine

/-- Settles O16: each path of the decode core gives its group's bytes back, and the count keeps the significant ones. -/
theorem quantumRoundTrip : Obligations.QuantumRoundTrip := by
  intro a b0 b1 b2 n hn
  obtain ⟨y0, y1, y2, y3, quantum, -, bytes⟩ := exists_enc3to4_eq_and_dec4to3_eq a b0 b1 b2 hn
  exact ⟨y0, y1, y2, y3, quantum, bytes⟩

/-- Settles O15: the four values are the 6-bit fields of the number, whose lanes path 3 gives back. -/
theorem dataSymbolsPackSixBitsEach : Obligations.DataSymbolsPackSixBitsEach := by
  intro a v0 v1 v2 v3 t
  have h0 : v0.toNat < 64 := v0.isLt
  have h1 : v1.toNat < 64 := v1.isLt
  have h2 : v2.toNat < 64 := v2.isLt
  have h3 : v3.toNat < 64 := v3.isLt
  have number : (BitVec.ofNat 24 t).toNat = t := by rw [BitVec.toNat_ofNat]; omega
  have field {start : Nat} {v : BitVec 6} (h : t / 2 ^ start % 64 = v.toNat) :
      (BitVec.ofNat 24 t).extractLsb' start 6 = v := by
    apply BitVec.eq_of_toNat_eq
    rw [extractLsb'_eq_ofNat_div, number, BitVec.toNat_ofNat, ← h]
  have group := dec4to3_three_byte_group a (BitVec.ofNat 24 t)
  rw [field (v := v0) (by omega), field (v := v1) (by omega), field (v := v2) (by omega),
    field (v := v3) (by omega)] at group
  rw [group]
  simp only [List.map, lane, toNat_extractLsb'_byte, number]
  rw [show t / 2 ^ (8 * 2) % 256 = t / 2 ^ 16 by omega, Nat.mul_zero, Nat.pow_zero, Nat.div_one]

end Sys2Proof.Machine
end

section
/-! Rules of every step: what it takes and answers, and what it may do to `S.OPT`, `S.SUSP` and a FAILED stream
(spec/10_state.md R24, R27, spec/60_exceptions.md R239, spec/70_reset_and_hazards.md R260). -/

namespace Sys2Proof.Machine

/-- Settles O41: a step on a command word decodes it and runs the arm of `exec`; `withFetchWord` puts the word there. -/
theorem stepRunsDecodedCommand : Obligations.StepRunsDecodedCommand := by
  have runs (s : State) (c : CmdWord) (rest : List Input) (i : Instr) (hin : s.inputs = .command c :: rest)
      (hc : decode c = .instr i) : step s = exec i { s with inputs := rest } := by
    simp only [step, hin, runCommand, hc]
  refine ⟨fun s c rest i hin hc _ => runs s c rest i hin hc, fun s w i hw => ?_⟩
  rw [decodeTableWord] at hw
  split at hw
  case h_1 hc => cases hw; exact runs _ _ _ _ (s.withFetchWord_inputs 64 w) hc
  case h_2 => cases hw

/-- Settles O42: the two branches of a step without a command. -/
theorem uncommandedStepsOnlyReset : Obligations.UncommandedStepsOnlyReset :=
  ⟨fun _ _ => step_reset, fun _ => step_idle⟩

/-- Settles O44: the three branches of a step. -/
theorem everyStepAnswersOnce : Obligations.EveryStepAnswersOnce := by
  intro s
  match hin : s.inputs with
  | [] => exact ⟨s, step_idle hin, by simp [hin], by simp, fun _ => rfl⟩
  | .reset :: rest => exact ⟨_, step_reset hin, rfl, by simp, fun _ => rfl⟩
  | .command c :: rest =>
    exact ⟨_, step_command hin, rfl, fun _ _ _ => ⟨_, rfl⟩, fun none => absurd rfl (none c rest)⟩

/-- A step that takes a command word does one of the word's cases. -/
theorem case_of_step_command {s t : State} {c : CmdWord} {rest : List Input} (h : step s = .next t)
    (hin : s.inputs = .command c :: rest) : ∃ r, CommandCase (decode c) s.stream t.stream r := by
  rw [step_command hin] at h
  obtain rfl := Host.Outcome.next.inj h
  exact ⟨_, answerWord_case c s.stream⟩

/-- A step leaves `S`, resets it, or does one of a command's cases. -/
theorem step_stream_cases {s t : State} (h : step s = .next t) :
    t.stream = s.stream ∨ (∃ rest, s.inputs = .reset :: rest) ∧ t.stream = StreamState.reset ∨
    ∃ c rest r, s.inputs = .command c :: rest ∧ CommandCase (decode c) s.stream t.stream r := by
  rcases step_cases h with ⟨-, rfl⟩ | ⟨rest, hin, rfl⟩ | ⟨c, rest, hin, rfl⟩
  · exact .inl rfl
  · exact .inr (.inl ⟨⟨rest, hin⟩, rfl⟩)
  · exact .inr (.inr ⟨c, rest, _, hin, answerWord_case c s.stream⟩)

section Cases
variable {cmd : Command} {S S' : StreamState} {r : Rsp}

theorem SwrCase.opt_eq {b : Byte} (h : SwrCase b S S' r) : S'.opt = S.opt := by
  cases h <;> rfl

theorem FlushCase.opt_eq (h : FlushCase S S' r) : S'.opt = S.opt := by
  cases h <;> rfl

/-- No command but SOPEN writes `S.OPT` (R24). -/
theorem CommandCase.opt_eq (h : CommandCase cmd S S' r) (hsopen : ∀ opt, cmd ≠ .instr (.sopen opt)) :
    S'.opt = S.opt := by
  cases h with
  | sopen opt => exact absurd rfl (hsopen opt)
  | swr _ hr => exact hr.opt_eq
  | sflush _ hr => exact hr.opt_eq
  | ssusp _ hr => exact hr.opt_eq
  | sclose _ hr => exact hr.opt_eq
  | _ => rfl

theorem SwrCase.susp_eq {b : Byte} (h : SwrCase b S S' r) : S'.susp = S.susp := by
  cases h <;> rfl

theorem FlushCase.susp_eq (h : FlushCase S S' r) : S'.susp = S.susp := by
  cases h <;> rfl

/-- Only SSUSP sets the suspended flag (R27, R163). -/
theorem CommandCase.ssusp_of_sets_susp (h : CommandCase cmd S S' r) (hS : S.susp = false) (hS' : S'.susp = true) :
    cmd = .instr .ssusp := by
  cases h with
  | ssusp _ _ => rfl
  | sopen opt => cases hS'
  | sres _ => cases hS'
  | sclose _ _ => cases hS'
  | swr _ hr => simp [hr.susp_eq, hS] at hS'
  | sflush _ hr => simp [hr.susp_eq, hS] at hS'
  | badPadding _ _ _ _ => simp [hS] at hS'
  | _ => simp [hS] at hS'

/-- SRES in OPEN resumes the stream (R164). -/
theorem CommandCase.susp_eq_false_of_sres (h : CommandCase (.instr .sres) S S' r) (ho : S.fsm = .opened) :
    S'.susp = false :=
  congrArg (fun out => out.1.susp) (h.answer_eq.symm.trans (CommandCase.sres ho).answer_eq)

/-- SCLOSE that closes an open stream resumes it (R165). -/
theorem CommandCase.susp_eq_false_of_sclose (h : CommandCase (.instr .sclose) S S' r) (ho : S.fsm = .opened)
    (hc : S'.fsm = .closed) : S'.susp = false := by
  cases h with
  | stateless _ hr => cases hr
  | gated _ hst => exact absurd ho hst.ne_opened
  | sclose _ _ => rfl
  | badPadding _ _ _ _ => cases hc

/-- Outside OPEN no command but SOPEN writes `S` (R151). -/
theorem CommandCase.stream_eq_of_not_opened (h : CommandCase cmd S S' r) (ho : S.fsm ≠ .opened)
    (hsopen : ∀ opt, cmd ≠ .instr (.sopen opt)) : S' = S := by
  cases h with
  | illegal op => rfl
  | stateless _ _ => rfl
  | sopen opt => exact absurd rfl (hsopen opt)
  | sstat => rfl
  | gated _ _ => rfl
  | swr h _ => exact absurd h ho
  | sres h => exact absurd h ho
  | sflush h _ => exact absurd h ho
  | ssusp h _ => exact absurd h ho
  | sclose h _ => exact absurd h ho
  | badPadding _ h _ _ => exact absurd h ho

end Cases

/-- Settles O31: of a step's cases only SOPEN and reset write `S.OPT`. -/
theorem optionsChangeOnlyAtSopenAndReset : Obligations.OptionsChangeOnlyAtSopenAndReset := by
  intro s t hstep changed
  rcases step_stream_cases hstep with same | ⟨reset, -⟩ | ⟨c, rest, r, hin, hcase⟩
  · exact absurd (congrArg StreamState.opt same) changed
  · exact .inl reset
  · by_cases hsopen : ∃ opt, decode c = .instr (.sopen opt)
    · obtain ⟨opt, hc⟩ := hsopen
      rw [hc] at hcase
      exact .inr ⟨c, rest, opt, hin, hc, congrArg StreamState.opt hcase.sopen_eq⟩
    · exact absurd (hcase.opt_eq fun opt hc => hsopen ⟨opt, hc⟩) changed

/-- Settles O32: of a step's cases only SSUSP sets the flag, and SRES, SCLOSE, SOPEN and reset each clear it. -/
theorem suspendedFlagChangesAsStated : Obligations.SuspendedFlagChangesAsStated := by
  refine fun s t hstep => ⟨fun hS ht => ?_, fun ⟨rest, hin⟩ => ?_, fun c rest hin => ?_⟩
  · rcases step_stream_cases hstep with same | ⟨-, reset⟩ | ⟨c, rest, r, hin, hcase⟩
    · simp [same, hS] at ht
    · rw [reset] at ht
      cases ht
    · exact ⟨c, rest, hin, hcase.ssusp_of_sets_susp hS ht⟩
  · rw [step_reset hin] at hstep
    obtain rfl := Host.Outcome.next.inj hstep
    rfl
  · obtain ⟨r, hcase⟩ := case_of_step_command hstep hin
    refine ⟨fun hc ho => ?_, fun hc ho closed => ?_, fun opt hc => ?_⟩ <;> rw [hc] at hcase
    · exact hcase.susp_eq_false_of_sres ho
    · exact hcase.susp_eq_false_of_sclose ho closed
    · exact congrArg StreamState.susp hcase.sopen_eq

/-- Settles O35: a FAILED stream is not OPEN, and outside OPEN only SOPEN writes `S`. -/
theorem failedIsSticky : Obligations.FailedIsSticky := by
  intro s t failed hstep
  rcases step_stream_cases hstep with same | ⟨reset, -⟩ | ⟨c, rest, r, hin, hcase⟩
  · exact .inl same
  · exact .inr (.inl reset)
  · by_cases hsopen : ∃ opt, decode c = .instr (.sopen opt)
    · obtain ⟨opt, hc⟩ := hsopen
      rw [hc] at hcase
      exact .inr (.inr ⟨c, rest, opt, hin, hc, congrArg StreamState.fsm hcase.sopen_eq⟩)
    · exact .inl (hcase.stream_eq_of_not_opened (by simp [failed]) fun opt hc => hsopen ⟨opt, hc⟩)

end Sys2Proof.Machine
end

section
/-! Every response: its unused fields and its status (spec/30_encoding.md R71, R72, spec/60_exceptions.md R230, R234). -/

namespace Sys2Proof.Machine

theorem enc3to4_length_le (a : Alphabet) (b0 b1 b2 : Byte) (n : BitVec 2) : (enc3to4 a b0 b1 b2 n).length ≤ 4 := by
  rw [enc3to4_length]; split <;> decide

theorem dec4to3_length_le (a : Alphabet) (s0 s1 s2 s3 : Byte) : (dec4to3 a s0 s1 s2 s3).length ≤ 3 := by
  rw [dec4to3_length]; split_ifs <;> decide

theorem completedQuantum_newline_length_le (S : StreamState) (b : Byte) :
    (completedQuantum S b ++ [Config.newline]).length ≤ 8 := by
  rw [List.length_append, List.length_singleton]
  exact (Nat.add_le_add_right (enc3to4_length_le _ _ _ _ _) 1).trans (by decide)

/-- The response of emitted bytes that fit its eight lanes (R72). -/
def Rsp.IsEmit (r : Rsp) : Prop := ∃ xs : List Byte, xs.length ≤ 8 ∧ r = emit xs

theorem isEmit_nil : (emit []).IsEmit := ⟨[], Nat.zero_le _, rfl⟩

section Cases
variable {cmd : Command} {S S' : StreamState} {r : Rsp}

theorem StatelessCase.isEmit {i : Instr} (h : StatelessCase i r) : r.IsEmit := by
  cases h with
  | nop => exact isEmit_nil
  | lute opt index => exact ⟨_, by simp, rfl⟩
  | lutd opt b => exact ⟨_, by simp, rfl⟩
  | enc3 opt cnt b0 b1 b2 => exact ⟨_, (enc3to4_length_le _ _ _ _ _).trans (by decide), rfl⟩
  | dec4 opt s0 s1 s2 s3 => exact ⟨_, (dec4to3_length_le _ _ _ _ _).trans (by decide), rfl⟩

/-- An OK SWR emits nothing, the suspended byte, a quantum's symbols, those and a newline, or a quantum's bytes. -/
theorem SwrCase.isEmit {b : Byte} (h : SwrCase b S S' r) (hok : r.rstat = .ok) : r.IsEmit := by
  cases h with
  | suspended _ => exact ⟨[b], by simp, rfl⟩
  | buffered _ _ _ => exact isEmit_nil
  | encodedWithNewline _ _ _ _ _ => exact ⟨_, completedQuantum_newline_length_le S b, rfl⟩
  | encoded _ _ _ _ => exact ⟨_, (enc3to4_length_le _ _ _ _ _).trans (by decide), rfl⟩
  | symbolBuffered _ _ _ _ => exact isEmit_nil
  | decoded _ _ _ _ => exact ⟨_, (dec4to3_length_le _ _ _ _ _).trans (by decide), rfl⟩
  | space _ _ _ => exact isEmit_nil
  | invalid _ _ _ => cases hok

theorem FlushCase.isEmit (h : FlushCase S S' r) : r.IsEmit := by
  cases h with
  | nothing _ => exact isEmit_nil
  | padded _ _ => exact ⟨_, (enc3to4_length_le _ _ _ _ _).trans (by decide), rfl⟩

/-- A response carries emitted bytes, is SSTAT's, or is that of a failure. -/
theorem CommandCase.rsp_cases (h : CommandCase cmd S S' r) :
    r.IsEmit ∨
    (cmd = .instr .sstat ∧ r = { rstat := .ok, rlen := 8, rdata := statWord S, rbyte := 0, rpos := S.pos }) ∨
    FailureCase cmd S S' r := by
  by_cases hok : r.rstat = .ok
  · cases h with
    | illegal op => cases hok
    | stateless _ hr => exact .inl hr.isEmit
    | sopen opt => exact .inl isEmit_nil
    | sstat => exact .inr (.inl ⟨rfl, rfl⟩)
    | gated _ hst => exact absurd hok hst.ne_ok
    | swr _ hr => exact .inl (hr.isEmit hok)
    | sres _ => exact .inl isEmit_nil
    | sflush _ hr => exact .inl hr.isEmit
    | ssusp _ hr => exact .inl hr.isEmit
    | sclose _ hr => exact .inl hr.isEmit
    | badPadding _ _ _ _ => cases hok
  · exact .inr (.inr (h.failureCase hok))

/-- The lanes and the length of a response (R71, R72). -/
def Rsp.LanesLegal (r : Rsp) : Prop := r.rlen.toNat ≤ 8 ∧ ∀ k < 8, r.rlen.toNat ≤ k → lane r.rdata k = 0

theorem emit_rlen_toNat {xs : List Byte} (h : xs.length ≤ 8) : (emit xs).rlen.toNat = xs.length := by
  rw [emit_rlen, BitVec.toNat_ofNat]
  omega

/-- Lanes above the emitted bytes are 0 (R72). -/
theorem Rsp.IsEmit.lanesLegal (h : r.IsEmit) : r.LanesLegal := by
  obtain ⟨xs, fits, rfl⟩ := h
  rw [Rsp.LanesLegal, emit_rlen_toNat fits]
  exact ⟨fits, fun k hk above => by rw [emit_rdata, lane_packLanes xs k hk, List.getD_eq_default _ _ above]⟩

theorem FailureCase.rlen_eq_zero (h : FailureCase cmd S S' r) : r.rlen = 0 := by
  cases h <;> rfl

/-- SSTAT answers all eight lanes; a failure none, and they are 0 (R166, R231). -/
theorem CommandCase.lanesLegal (h : CommandCase cmd S S' r) : r.LanesLegal := by
  rcases h.rsp_cases with emitted | ⟨-, rfl⟩ | failed
  · exact emitted.lanesLegal
  · exact ⟨Nat.le_refl 8, fun k hk full => absurd (hk.trans_le full) (Nat.lt_irrefl k)⟩
  · rw [Rsp.LanesLegal, failed.rlen_eq_zero, failed.rdata_eq_zero]
    exact ⟨by decide, fun k _ _ => by simp [lane]⟩

/-- Only INVALID_BYTE reports a byte (R71, R232). -/
theorem CommandCase.invalidByte_of_rbyte (h : CommandCase cmd S S' r) (hb : r.rbyte ≠ 0) : r.rstat = .invalidByte := by
  rcases h.rsp_cases with ⟨xs, -, rfl⟩ | ⟨-, rfl⟩ | failed
  · exact absurd rfl hb
  · exact absurd rfl hb
  · exact failed.invalidByte_of_rbyte hb

/-- Only the two errors and SSTAT report a position (R71, R166, R232, R233). -/
theorem CommandCase.error_or_sstat_of_rpos (h : CommandCase cmd S S' r) (hp : r.rpos ≠ 0) :
    r.rstat = .invalidByte ∨ r.rstat = .badPadding ∨ cmd = .instr .sstat := by
  rcases h.rsp_cases with ⟨xs, -, rfl⟩ | ⟨hstat, -⟩ | failed
  · exact absurd rfl hp
  · exact .inr (.inr hstat)
  · exact (failed.error_of_rpos hp).imp_right .inl

theorem GateCase.ne_underlength {f : Fsm} {st : Status} (h : GateCase f st) : st ≠ .underlength := by
  cases h <;> decide

/-- No failure of the block is UNDERLENGTH (R234). -/
theorem FailureCase.ne_underlength (h : FailureCase cmd S S' r) : r.rstat ≠ .underlength := by
  cases h with
  | gated _ hst => exact hst.ne_underlength
  | _ => simp

end Cases

/-- Settles O37: emitted bytes, SSTAT's word and the failures, each with its unused lanes and fields 0. -/
theorem unusedResponseFieldsAreZero : Obligations.UnusedResponseFieldsAreZero := by
  intro c s
  have answered := answerWord_case c s.stream
  obtain ⟨length, lanes⟩ := answered.lanesLegal
  exact ⟨_, _, stepAnswers_answerWord c s, length, lanes, answered.invalidByte_of_rbyte,
    answered.error_or_sstat_of_rpos⟩

/-- Settles O39: the codes are the model's numbers; a response is OK or one of the failures, none of them UNDERLENGTH. -/
theorem statusCodesAndUnderlength : Obligations.StatusCodesAndUnderlength := by
  refine ⟨by decide, fun c s => ⟨_, _, stepAnswers_answerWord c s, fun underlength => ?_⟩⟩
  have failed := (answerWord_case c s.stream).failureCase (by simp [underlength])
  exact failed.ne_underlength underlength

end Sys2Proof.Machine
end

section
/-! The walk of `HostDecode` over whitespace, quanta, a partial tail and an INVALID byte (spec/45_host_sequences.md R207 to
R210). -/

namespace Sys2Proof.Machine

/-- A result as it is behind `n` bytes that gave `pre`: its bytes follow, and an error's position is that much further. -/
def HostResult.behind (pre : List Byte) (n : Nat) : HostResult → HostResult
  | .bytes out => .bytes (pre ++ out)
  | .underlength => .underlength
  | .invalidByte b pos => .invalidByte b (pos + n)

section Walk
variable {a : Alphabet} {b : Byte}

/-- A DATA byte is accumulated or completes its quantum (R207). -/
theorem hostDecodeLoop_data (h : byteClass a b = .data) (pos : Nat) (q out rest : List Byte) :
    hostDecodeLoop a pos q out (b :: rest) =
      hostDecodeLoop a (pos + 1) (hostAccumulate a q b).1 (out ++ (hostAccumulate a q b).2) rest := by
  simp [hostDecodeLoop, h]

/-- An INVALID byte ends the walk (R210). -/
theorem hostDecodeLoop_invalid (h : byteClass a b = .invalid) (pos : Nat) (q out rest : List Byte) :
    hostDecodeLoop a pos q out (b :: rest) = .invalidByte b pos := by
  simp [hostDecodeLoop, h]

/-- `=` ends the walk where it completes a quantum, and is accumulated elsewhere (R207, R208). -/
theorem hostDecodeLoop_pad (h : byteClass a b = .pad) (pos : Nat) (q out rest : List Byte) :
    hostDecodeLoop a pos q out (b :: rest) =
      if q.length = 3 then .bytes (out ++ (hostAccumulate a q b).2)
      else hostDecodeLoop a (pos + 1) (hostAccumulate a q b).1 (out ++ (hostAccumulate a q b).2) rest := by
  simp [hostDecodeLoop, h]

/-- What the walk has read and given before enters its result only as bytes in front and a distance. -/
theorem hostDecodeLoop_behind (pre : List Byte) (n pos : Nat) (q out rest : List Byte) :
    hostDecodeLoop a (pos + n) q (pre ++ out) rest = (hostDecodeLoop a pos q out rest).behind pre n := by
  induction rest generalizing pos q out with
  | nil => rfl
  | cons b rest ih =>
    have next : pos + n + 1 = pos + 1 + n := by omega
    cases hc : byteClass a b with
    | invalid => rw [hostDecodeLoop_invalid hc, hostDecodeLoop_invalid hc]; rfl
    | ws => rw [hostDecodeLoop_space hc, hostDecodeLoop_space hc, next, ih]
    | data => rw [hostDecodeLoop_data hc, hostDecodeLoop_data hc, next, List.append_assoc, ih]
    | pad =>
      rw [hostDecodeLoop_pad hc, hostDecodeLoop_pad hc, next, List.append_assoc, ih]
      split_ifs <;> rfl

/-- Without INVALID bytes the position is never reported, so leaving whitespace out changes nothing (R207). -/
theorem hostDecodeLoop_filter_space {e : List Byte} (h : ∀ b ∈ e, byteClass a b ≠ .invalid) (pos pos' : Nat)
    (q out : List Byte) :
    hostDecodeLoop a pos q out e = hostDecodeLoop a pos' q out (e.filter fun b => byteClass a b ≠ .ws) := by
  induction e generalizing pos pos' q out with
  | nil => rfl
  | cons b e ih =>
    have rest := ih fun x hx => h x (.tail b hx)
    by_cases hws : byteClass a b = .ws
    · rw [hostDecodeLoop_space hws, List.filter_cons_of_neg (by simp [hws])]
      exact rest _ _ _ _
    · rw [List.filter_cons_of_pos (by simp [hws])]
      cases hc : byteClass a b with
      | invalid => exact absurd hc (h b (.head e))
      | ws => exact absurd hc hws
      | data => rw [hostDecodeLoop_data hc, hostDecodeLoop_data hc, rest]
      | pad => rw [hostDecodeLoop_pad hc, hostDecodeLoop_pad hc, rest _ (pos' + 1)]

/-- The first INVALID byte is reported at its distance from where the walk stands (R210). -/
theorem hostDecodeLoop_first_invalid {pre : List Byte}
    (hpre : ∀ x ∈ pre, byteClass a x = .data ∨ byteClass a x = .ws) (hb : byteClass a b = .invalid) (pos : Nat)
    (q out post : List Byte) : hostDecodeLoop a pos q out (pre ++ b :: post) = .invalidByte b (pos + pre.length) := by
  induction pre generalizing pos q out with
  | nil => exact hostDecodeLoop_invalid hb pos q out post
  | cons x pre ih =>
    have rest := ih fun y hy => hpre y (.tail x hy)
    rw [List.cons_append, List.length_cons, show pos + (pre.length + 1) = pos + 1 + pre.length by omega]
    rcases hpre x (.head pre) with hx | hx
    · rw [hostDecodeLoop_data hx, rest]
    · rw [hostDecodeLoop_space hx, rest]

/-- Symbols that complete no quantum are dropped at the end of the range (R209). -/
theorem hostDecodeLoop_partial {tail : List Byte} (h : ∀ b ∈ tail, isSymbolOf a b) {q : List Byte}
    (short : q.length + tail.length < 4) (pos : Nat) (out : List Byte) :
    hostDecodeLoop a pos q out tail = .bytes out := by
  induction tail generalizing pos q with
  | nil => rfl
  | cons b tail ih =>
    rw [List.length_cons] at short
    rw [hostDecodeLoop_symbol (h b (.head tail)) (by omega)]
    exact ih (fun x hx => h x (.tail b hx)) (by rw [List.length_append, List.length_singleton]; omega) _

/-- A DATA byte is not `=`. -/
theorem ne_padChar_of_data (h : byteClass a b = .data) : b ≠ Config.padChar := by
  rintro rfl
  rw [byteClass_padChar] at h
  cases h

/-- Whole quanta of DATA symbols are walked through, whatever follows them (R207). -/
theorem exists_hostDecodeLoop_data_quanta : ∀ {pre : List Byte}, (∀ b ∈ pre, byteClass a b = .data) →
    pre.length % 4 = 0 → ∀ (pos : Nat) (out : List Byte), ∃ pos' out', ∀ rest,
      hostDecodeLoop a pos [] out (pre ++ rest) = hostDecodeLoop a pos' [] out' rest
  | [], _, _, pos, out => ⟨pos, out, fun _ => rfl⟩
  | y0 :: y1 :: y2 :: y3 :: pre, data, whole, pos, out => by
    have symbols : ∀ y ∈ [y0, y1, y2, y3], isSymbolOf a y := fun y hy =>
      .inl (data y (List.mem_append_left pre hy))
    have notPad : y3 ≠ Config.padChar := ne_padChar_of_data (data y3 (by simp))
    obtain ⟨pos', out', walk⟩ := exists_hostDecodeLoop_data_quanta (pre := pre)
      (fun b hb => data b (List.mem_append_right [y0, y1, y2, y3] hb)) (by simp at whole; omega) (pos + 4)
      (out ++ dec4to3 a y0 y1 y2 y3)
    refine ⟨pos', out', fun rest => ?_⟩
    rw [← walk rest]
    exact hostDecodeLoop_quantum symbols (fun h => absurd h notPad) pos out

/-- `=` in the fourth place ends the walk, whatever follows it (R208). -/
theorem hostDecodeLoop_terminal_pad {s0 s1 s2 : Byte} (h0 : isSymbolOf a s0) (h1 : isSymbolOf a s1) (h2 : isSymbolOf a s2)
    (pos : Nat) (out post : List Byte) : hostDecodeLoop a pos [] out ([s0, s1, s2, 0x3D] ++ post) =
      .bytes (out ++ dec4to3 a s0 s1 s2 0x3D) := by
  have pad : byteClass a 0x3D = .pad := byteClass_padChar a
  simp only [List.cons_append, List.nil_append]
  rw [hostDecodeLoop_symbol h0 (by decide), hostDecodeLoop_symbol h1 (by simp), hostDecodeLoop_symbol h2 (by simp),
    hostDecodeLoop_pad pad]
  rfl

end Walk

/-- Settles O51: the walk comes to the quantum with an empty `q`, and its `=` ends it. -/
theorem hostDecodeStopsAtTerminalPad : Obligations.HostDecodeStopsAtTerminalPad := by
  intro o pre s0 s1 s2 post data whole h0 h1 h2
  obtain ⟨pos, out, walk⟩ := exists_hostDecodeLoop_data_quanta data whole 0 []
  have ends (post : List Byte) :
      hostDecode (pre ++ [s0, s1, s2, 0x3D] ++ post) o = .bytes (out ++ dec4to3 (alphaSel o) s0 s1 s2 0x3D) := by
    rw [hostDecode_of_four_le (by simp; omega), List.append_assoc, walk, hostDecodeLoop_terminal_pad h0 h1 h2]
  have alone := ends []
  rw [List.append_nil] at alone
  exact ⟨(ends post).trans alone.symm, _, alone⟩

/-- Settles O52: the quantum is walked through, and the rest is the same walk four bytes further. -/
theorem hostDecodeContinuesAfterQuantum : Obligations.HostDecodeContinuesAfterQuantum := by
  intro o s0 s1 s2 s3 rest h0 h1 h2 h3 long
  have symbols : ∀ y ∈ [s0, s1, s2, s3], isSymbolOf (alphaSel o) y := by
    simpa using ⟨h0, h1, h2, .inl h3⟩
  have bytes : (quantumBytes (alphaSel o) s0 s1 s2 s3).map (BitVec.ofNat 8) = dec4to3 (alphaSel o) s0 s1 s2 s3 := by
    rw [← dec4to3_map_toNat]; simp [Function.comp_def]
  have walk : hostDecode ([s0, s1, s2, s3] ++ rest) o =
      (hostDecode rest o).behind (dec4to3 (alphaSel o) s0 s1 s2 s3) 4 := by
    rw [hostDecode_of_four_le (by simp), hostDecode_of_four_le long,
      hostDecodeLoop_quantum symbols fun h => absurd h (ne_padChar_of_data h3), List.nil_append, ← hostDecodeLoop_behind,
      List.append_nil]
  rw [walk, bytes]
  cases hostDecode rest o <;> rfl

/-- Settles O53: the walk comes to the tail with an empty `q`, and the tail completes no quantum. -/
theorem hostDecodeDropsPartialTail : Obligations.HostDecodeDropsPartialTail := by
  intro o pre tail data whole hne short symbols
  have positive : 0 < pre.length := List.length_pos_of_ne_nil hne
  obtain ⟨pos, out, walk⟩ := exists_hostDecodeLoop_data_quanta data whole 0 []
  have drops {tail : List Byte} (short : tail.length < 4) (symbols : ∀ b ∈ tail, isSymbolOf (alphaSel o) b) :
      hostDecode (pre ++ tail) o = .bytes out := by
    rw [hostDecode_of_four_le (by rw [List.length_append]; omega), walk,
      hostDecodeLoop_partial symbols (by simpa using short)]
  have alone := drops (tail := []) (by decide) (by simp)
  rw [List.append_nil] at alone
  exact ⟨(drops short symbols).trans alone.symm, _, alone⟩

/-- Settles O54: DATA and whitespace bytes take the walk to the INVALID byte. -/
theorem hostDecodeReportsFirstInvalid : Obligations.HostDecodeReportsFirstInvalid := by
  intro o pre b post hpre hb long
  have reports : hostDecode (pre ++ b :: post) o = .invalidByte b pre.length := by
    rw [hostDecode_of_four_le long, hostDecodeLoop_first_invalid hpre hb, Nat.zero_add]
  exact ⟨reports, by rw [reports]; rfl⟩

/-- Settles O55: both ranges are long enough for the walk, which skips whitespace. -/
theorem hostDecodeIgnoresWhitespace : Obligations.HostDecodeIgnoresWhitespace := by
  intro o e valid long
  rw [hostDecode_of_four_le long, hostDecode_of_four_le (long.trans (List.length_filter_le _ e))]
  exact hostDecodeLoop_filter_space valid 0 0 [] []

end Sys2Proof.Machine
end

section
/-! String decode: text to bytes, and the automatic gunzip (spec/45_host_sequences.md R211, R212). -/

namespace Sys2Proof.Machine

/-- The bytes of one character with its index in the string: its code, or what the host chooses (D47). -/
def charBytes (nonAscii : Nat → List Byte) (ck : Char × Nat) : List Byte :=
  if ck.1.toNat < 128 then [BitVec.ofNat 8 ck.1.toNat] else nonAscii ck.2

theorem hostStringToBytes_eq (p : Config.HostParams) (t : List Char) :
    hostStringToBytes p t = t.zipIdx.flatMap (charBytes (p.nonAscii t)) := rfl

/-- ASCII characters convert to their codes, at whatever index of the string they stand (D47). -/
theorem flatMap_charBytes_of_ascii (nonAscii : Nat → List Byte) {t : List Char} (h : ∀ c ∈ t, c.toNat < 128) (k : Nat) :
    (t.zipIdx k).flatMap (charBytes nonAscii) = t.map fun c => BitVec.ofNat 8 c.toNat := by
  induction t generalizing k with
  | nil => rfl
  | cons c t ih =>
    rw [List.zipIdx_cons, List.flatMap_cons, ih fun x hx => h x (.tail c hx), charBytes, if_pos (h c (.head t))]
    rfl

theorem hostStringToBytes_of_ascii (p : Config.HostParams) {t : List Char} (h : ∀ c ∈ t, c.toNat < 128) :
    hostStringToBytes p t = t.map fun c => BitVec.ofNat 8 c.toNat :=
  flatMap_charBytes_of_ascii (p.nonAscii t) h 0

/-- The magic number, as the first two bytes of the result (R211). -/
theorem hasGzipMagic_iff (r : List Byte) : hasGzipMagic r = true ↔ 4 ≤ r.length ∧ r.take 2 = [0x1F, 0x8B] := by
  rw [hasGzipMagic, Bool.and_assoc, Bool.and_eq_true, decide_eq_true_iff]
  refine and_congr_right fun long => ?_
  match r, long with
  | b0 :: b1 :: rest, _ => simp

theorem optDontGunzip_eq_false_iff (o : Options) : optDontGunzip o = false ↔ o.toNat / 4 % 2 = 0 := by
  rw [← Bool.not_eq_true, optDontGunzip_iff]
  omega

/-- R211's condition for the gunzip. -/
theorem gunzips_iff (r : List Byte) (o : Options) : (hasGzipMagic r && !optDontGunzip o) = true ↔
    4 ≤ r.length ∧ r.take 2 = [0x1F, 0x8B] ∧ o.toNat / 4 % 2 = 0 := by
  rw [Bool.and_eq_true, hasGzipMagic_iff, Bool.not_eq_true', optDontGunzip_eq_false_iff, and_assoc]

/-- Settles O56: the conversion character by character; then the branches on the magic number and on the decompression. -/
theorem hostDecodeStringGunzips : Obligations.HostDecodeStringGunzips := by
  refine ⟨fun p t u ascii => ⟨hostStringToBytes_of_ascii p ascii, ?_, ?_⟩,
    fun p t o => ⟨fun r decoded => ?_, fun other => ?_⟩⟩
  · rw [hostStringToBytes_eq, List.zipIdx_append, List.flatMap_append, flatMap_charBytes_of_ascii _ ascii]
    exact ⟨_, rfl⟩
  · rw [hostStringToBytes_eq, List.zipIdx_append, List.flatMap_append, flatMap_charBytes_of_ascii _ ascii]
    exact ⟨_, rfl⟩
  · simp only [hostDecodeString, decoded]
    rw [← gunzips_iff]
    refine ⟨fun magic => ⟨fun z hz => ?_, fun hnone => ?_⟩, fun plain => if_neg plain⟩
    · rw [if_pos magic, hz]
    · rw [if_pos magic, hnone]
  · rw [hostDecodeString]
    cases result : hostDecode (hostStringToBytes p t) o with
    | bytes r => exact absurd result (other r)
    | underlength => rfl
    | invalidByte b pos => rfl

end Sys2Proof.Machine
end

section
/-! Encoded output: every byte is newline, `=` or a symbol, and it is ASCII text (spec/45_host_sequences.md R213). -/

namespace Sys2Proof.Machine

theorem isEncodedByte_newline (a : Alphabet) : IsEncodedByte a Config.newline := ⟨by decide, .inl rfl⟩

theorem isEncodedByte_padChar (a : Alphabet) : IsEncodedByte a Config.padChar := ⟨by decide, .inr (.inl rfl)⟩

theorem isEncodedByte_encRom (a : Alphabet) (i : BitVec 6) : IsEncodedByte a (encRom a i) :=
  ⟨encRom_toNat_lt a i, .inr (.inr ⟨i, rfl⟩)⟩

theorem isEncodedByte_of_mem_enc3to4 {a : Alphabet} {b0 b1 b2 : Byte} {n : BitVec 2} {y : Byte}
    (h : y ∈ enc3to4 a b0 b1 b2 n) : IsEncodedByte a y := by
  rcases eq_padChar_or_encRom_of_mem_enc3to4 h with rfl | ⟨i, rfl⟩
  · exact isEncodedByte_padChar a
  · exact isEncodedByte_encRom a i

/-- A response whose result lanes are all encoded output. -/
def Rsp.IsEncoded (a : Alphabet) (r : Rsp) : Prop := ∀ k < r.rlen.toNat, IsEncodedByte a (lane r.rdata k)

/-- Of emitted bytes the lanes are the bytes. -/
theorem isEncoded_emit {a : Alphabet} {xs : List Byte} (fits : xs.length ≤ 8) (h : ∀ x ∈ xs, IsEncodedByte a x) :
    (emit xs).IsEncoded a := by
  intro k hk
  rw [emit_rlen_toNat fits] at hk
  rw [emit_rdata, lane_packLanes xs k (by omega), List.getD_eq_getElem xs 0 hk]
  exact h _ (List.getElem_mem hk)

theorem isEncoded_emit_nil (a : Alphabet) : (emit []).IsEncoded a := isEncoded_emit (by simp) (by simp)

theorem isEncoded_emit_enc3to4 (a : Alphabet) (b0 b1 b2 : Byte) (n : BitVec 2) :
    (emit (enc3to4 a b0 b1 b2 n)).IsEncoded a :=
  isEncoded_emit ((enc3to4_length_le a b0 b1 b2 n).trans (by decide)) fun _ => isEncodedByte_of_mem_enc3to4

theorem isEncoded_raise (a : Alphabet) (st : Status) (b : Byte) (p : BitVec 32) : (raise st b p).IsEncoded a :=
  fun k hk => absurd hk (Nat.not_lt_zero k)

section Cases
variable {cmd : Command} {S S' : StreamState} {r : Rsp} {a : Alphabet}

theorem StatelessCase.isEncoded {i : Instr} (h : StatelessCase i r) (ha : encodedOutputOf S (.instr i) = some a) :
    r.IsEncoded a := by
  cases h with
  | nop => cases ha
  | lute opt index =>
    cases ha
    exact isEncoded_emit (by simp) (by simpa using isEncodedByte_encRom _ index)
  | lutd opt b => cases ha
  | enc3 opt cnt b0 b1 b2 =>
    cases ha
    exact isEncoded_emit_enc3to4 _ b0 b1 b2 cnt
  | dec4 opt s0 s1 s2 s3 => cases ha

/-- Of an SWR only that of an unsuspended encode stream is encoded output, of the stream's alphabet. -/
theorem encodedOutputOf_swr {b : Byte} (ha : encodedOutputOf S (.instr (.swr b)) = some a) :
    S.susp = false ∧ S.encodes = true ∧ S.alphabet = a := by
  rw [encodedOutputOf] at ha
  split_ifs at ha with guard
  exact ⟨guard.1, guard.2, Option.some.inj ha⟩

theorem SwrCase.isEncoded {b : Byte} (h : SwrCase b S S' r) (ha : encodedOutputOf S (.instr (.swr b)) = some a) :
    r.IsEncoded a := by
  obtain ⟨active, enc, rfl⟩ := encodedOutputOf_swr ha
  cases h with
  | suspended hs => exact absurd (active.symm.trans hs) (by decide)
  | buffered _ _ _ => exact isEncoded_emit_nil _
  | encodedWithNewline _ _ _ _ _ =>
    refine isEncoded_emit (completedQuantum_newline_length_le S b) fun x hx => ?_
    rcases List.mem_append.1 hx with symbol | newline
    · exact isEncodedByte_of_mem_enc3to4 symbol
    · exact List.mem_singleton.1 newline ▸ isEncodedByte_newline _
  | encoded _ _ _ _ => exact isEncoded_emit_enc3to4 _ _ _ _ _
  | symbolBuffered _ hd _ _ => exact absurd (enc.symm.trans hd) (by decide)
  | decoded _ hd _ _ => exact absurd (enc.symm.trans hd) (by decide)
  | space _ hd _ => exact absurd (enc.symm.trans hd) (by decide)
  | invalid _ hd _ => exact absurd (enc.symm.trans hd) (by decide)

theorem FlushCase.isEncoded (h : FlushCase S S' r)
    (ha : (if optEncode S.opt = true then some (alphaSel S.opt) else none) = some a) : r.IsEncoded a := by
  cases h with
  | nothing _ => exact isEncoded_emit_nil a
  | padded _ enc =>
    rw [← S.encodes_eq, if_pos enc] at ha
    cases ha
    exact isEncoded_emit_enc3to4 _ _ _ _ _

/-- Whatever a command answers, its encoded output is of the alphabet it has. -/
theorem CommandCase.isEncoded (h : CommandCase cmd S S' r) (ha : encodedOutputOf S cmd = some a) : r.IsEncoded a := by
  cases h with
  | illegal op => cases ha
  | stateless _ hr => exact hr.isEncoded ha
  | sopen opt => cases ha
  | sstat => cases ha
  | gated _ _ => exact isEncoded_raise _ _ _ _
  | swr _ hr => exact hr.isEncoded ha
  | sres _ => cases ha
  | sflush _ hr => exact hr.isEncoded ha
  | ssusp _ hr => exact hr.isEncoded ha
  | sclose _ hr => exact hr.isEncoded ha
  | badPadding _ _ _ _ => exact isEncoded_raise _ _ _ _

end Cases

/-- The loop of `HostEncode` writes encoded bytes: newlines and quanta. -/
theorem isEncodedByte_of_mem_hostEncodeLoop {a : Alphabet} {brk : Bool} {line : Nat} {d : List Byte} {b : Byte}
    (h : b ∈ hostEncodeLoop a brk line d) : IsEncodedByte a b := by
  induction d using stride_induction generalizing line with
  | nil => cases h
  | stride d hd ih =>
    rw [hostEncodeLoop_eq_stride a brk line hd, List.mem_append, List.mem_append] at h
    rcases h with (newline | symbol) | rest
    · rcases breakIfFull_cases brk line with ⟨-, -, e, -⟩ | ⟨-, e, -⟩ <;> rw [e] at newline
      · exact List.mem_singleton.1 newline ▸ isEncodedByte_newline a
      · cases newline
    · exact isEncodedByte_of_mem_enc3to4 symbol
    · exact ih rest

/-- An encode stream's bytes are the loop's, and a newline (R169). -/
theorem isEncodedByte_of_mem_streamRun {s : State} {d : List Byte} {o : Options} (he : optEncode o = true) {b : Byte}
    (h : b ∈ streamRun s o d) : IsEncodedByte (alphaSel o) b := by
  rw [(streamRun_encode s d he).1, List.mem_append] at h
  rcases h with host | newline
  · exact isEncodedByte_of_mem_hostEncodeLoop host
  · rw [trailingNewline] at newline
    split_ifs at newline
    · exact List.mem_singleton.1 newline ▸ isEncodedByte_newline _
    · cases newline

theorem optEncode_or_encode (o : Options) : optEncode (o ||| 1) = true := by
  simp [optEncode]

/-- With GZIP set the host runs an encode stream, with GZIP clear the loop (R204). -/
theorem isEncodedByte_of_mem_hostEncode {p : Config.HostParams} {s : State} {d : List Byte} {o : Options} {b : Byte}
    (h : b ∈ hostEncode p s d o) : IsEncodedByte (alphaSel o) b := by
  rw [hostEncode] at h
  split_ifs at h
  · rw [← alphaSel_or_encode]
    exact isEncodedByte_of_mem_streamRun (optEncode_or_encode o) h
  · exact isEncodedByte_of_mem_hostEncodeLoop h

/-- Bytes that are ASCII codes have a text, which converts back to them (R211, R213). -/
theorem exists_hostText_of_ascii (p : Config.HostParams) {bs : List Byte} (h : ∀ b ∈ bs, b.toNat < 128) :
    ∃ t, hostText bs = some t ∧ t.map Char.toNat = bs.map BitVec.toNat ∧ hostStringToBytes p t = bs := by
  have codes : (bs.map fun b => Char.ofNat b.toNat).map Char.toNat = bs.map BitVec.toNat := by
    rw [List.map_map]
    exact List.map_congr_left fun b hb => toNat_char_of_ascii b (h b hb)
  have ascii : ∀ c ∈ bs.map fun b => Char.ofNat b.toNat, c.toNat < 128 := fun c hc => by
    obtain ⟨b, hb, rfl⟩ := List.mem_map.1 hc
    rw [toNat_char_of_ascii b (h b hb)]
    exact h b hb
  refine ⟨_, hostText_of_ascii bs h, codes, ?_⟩
  rw [hostStringToBytes_of_ascii p ascii, ← Function.comp_def (BitVec.ofNat 8) Char.toNat, ← List.map_map, codes]
  simp [Function.comp_def]

/-- Settles O49: command by command, by R169 for the stream and by the loop for the whole buffer; encoded bytes are ASCII. -/
theorem encodedOutputIsSevenBit : Obligations.EncodedOutputIsSevenBit := by
  refine ⟨fun c s => ⟨_, _, stepAnswers_answerWord c s, fun a ha => ?_⟩,
    fun s d o he b hb => isEncodedByte_of_mem_streamRun he hb,
    fun p s d o => ⟨fun b hb => isEncodedByte_of_mem_hostEncode hb, ?_⟩⟩
  · exact (answerWord_case c s.stream).isEncoded ha
  · exact exists_hostText_of_ascii p fun b hb => (isEncodedByte_of_mem_hostEncode hb).1

end Sys2Proof.Machine
end
